-- ==== Sys2Proof/Word.lean ====
section
/-! DEFINITION. The words the spec treats as bits: the command word, the dispatch key, a byte, the window and the CRC register. -/

namespace Sys2Proof

/-- A command word `cmd[2:0]` (30_encoding.md R70). -/
abbrev Word := BitVec 3

/-- A dispatch key `K[7:0]` (30_encoding.md R74). -/
abbrev Key := BitVec 8

/-- A byte, as APPEND carries it (20_memory.md R56). -/
abbrev Byte := BitVec 8

/-- The width of the bit window and of the CRC register (10_state.md R24, R30). -/
abbrev Half := BitVec 16

end Sys2Proof
end

