-- ==== Sys2Proof/Config.lean ====
section
/-! DEFINITION. The fixed protocol constants (00_scope.md R8), the parameters a model takes (R9 to R11), and the free values: constants without a body, for what the spec leaves open. -/

namespace Sys2Proof

namespace Config

/-- FLAG (R8): `0111 1110`. -/
def flag : Byte := 0x7E#8

/-- CRC_POLY (R8). -/
def crcPoly : Half := 0x8408#16

/-- CRC_SEED (R8). -/
def crcSeed : Half := 0xFFFF#16

/-- CRC_RESIDUE (R8). -/
def crcResidue : Half := 0xF0B8#16

/-- STUFF_RUN (R8). -/
def stuffRun : BitVec 3 := 5#3

/-- PREFETCH_BITS (R8). -/
def prefetchBits : BitVec 16 := 8#16

/-- FLAG_REMAIN_SAW0 (R8). -/
def flagRemainSaw0 : BitVec 8 := 7#8

/-- FLAG_REMAIN_SAW1 (R8). -/
def flagRemainSaw1 : BitVec 8 := 5#8

/-- Free value: at the n-th draw, does the control surface's command go before the bit source's when both wait?
20_memory.md R61 admits both orders. Log entry 4. -/
opaque controlFirst : Nat → Bool

/-- Free value: what RUN holds after a plain +1 at RUN = 7. 10_state.md R37 says this never happens and states no result.
Log entry 5. -/
opaque runPastEnd : Nat → BitVec 3

/-- Free value: what SCOUNT holds after the decrement of BIT.SYNC_INFLAG at SCOUNT = 0. 10_state.md R27 says this never
happens and states no result. Log entry 5. -/
opaque scountPastZero : Nat → BitVec 8

end Config

/-- COUNTER_OVERFLOW (00_scope.md R10). -/
inductive CounterOverflow where
  | saturate
  | wrap
  deriving DecidableEq, Repr

/-- The named parameters of 00_scope.md R9 to R11, each with the default the spec gives it. -/
structure Params where
  /-- SYNC_TIMEOUT (R9). -/
  syncTimeout : Nat := 16
  /-- PREAMBLE_MIN (R9). -/
  preambleMin : Nat := 8
  /-- MAX_FRAME_BITS (R9). -/
  maxFrameBits : Nat := 1020
  /-- COUNTER_OVERFLOW (R10). -/
  counterOverflow : CounterOverflow := .saturate
  /-- INITIAL_CHAN (R11). -/
  initialChan : Bool := false
  deriving DecidableEq, Repr

/-- Every parameter at its default (R9 to R11). -/
def Params.default : Params := { }

end Sys2Proof
end

