-- ==== Sys2Proof/Syntax.lean ====
section
/-! DEFINITION. The operations of spec/opcode_table.json, one constructor per row. The operand of a BIT row is RAW, the raw encoded bit (30_encoding.md R72). -/

namespace Sys2Proof

/-- The operation a command performs, selected by the dispatch key (30_encoding.md R74). Every operand value of every
row is legal (R70: no operand other than `d`), so every term of this type is well formed. -/
inductive Instr where
  /-- BIT.OFF (R161). -/
  | bitOff (raw : Bool)
  /-- BIT.RESET (R162). -/
  | bitReset (raw : Bool)
  /-- BIT.SYNC_RESET (R111). -/
  | bitSyncReset (raw : Bool)
  /-- BIT.SYNC_SAWZERO (R112). -/
  | bitSyncSawZero (raw : Bool)
  /-- BIT.SYNC_SAWONE (R113). -/
  | bitSyncSawOne (raw : Bool)
  /-- BIT.SYNC_INFLAG (R114). -/
  | bitSyncInFlag (raw : Bool)
  /-- BIT.PREFETCH (R163). -/
  | bitPrefetch (raw : Bool)
  /-- BIT.RECEIVE (R130). -/
  | bitReceive (raw : Bool)
  /-- ENABLE (R167). -/
  | enable
  /-- DISABLE (R168). -/
  | disable
  /-- READ_STATE (R169). -/
  | readState
  /-- READ_ERROR (R170). -/
  | readError
  deriving DecidableEq, Repr

end Sys2Proof
end

