-- ==== Sys2Proof/Machine/Types.lean ====
section
/-! DEFINITION. The named values of the registers, the commands of the environment, and the outputs. -/

namespace Sys2Proof

/-- DSTATE, DecoderState (10_state.md R25). The three codes without a name are reached by no rule (R36), but
43_packet_handler.md R172 says what each command does in them, so they can be written. -/
inductive DState where
  | off
  | reset
  | waiting
  | prefetch
  | receiving
  | unassigned5
  | unassigned6
  | unassigned7
  deriving DecidableEq, Repr

/-- SSTATE, SyncState (10_state.md R26). -/
inductive SState where
  | sreset
  | sawZero
  | sawOne
  | inFlag
  deriving DecidableEq, Repr

/-- LASTERR, LastError (10_state.md R33). -/
inductive LastError where
  | errNone
  | errStuff
  | errNoend
  | errCrc
  deriving DecidableEq, Repr

/-- The outcomes of ExitToReset (43_packet_handler.md R165). -/
inductive ExitOutcome where
  | commit
  | crcMismatch
  | stuffBitViolation
  | noEndFlag
  | syncTimeout
  deriving DecidableEq, Repr

/-- The output events (20_memory.md R56). -/
inductive Event where
  /-- BEGIN(ch). -/
  | beginPacket (ch : Bool)
  /-- APPEND(b). -/
  | append (b : Byte)
  /-- COMMIT. -/
  | commit
  /-- DISCARD. -/
  | discard
  /-- HOP(ch). -/
  | hop (ch : Bool)
  deriving DecidableEq, Repr

/-- What a read command returns: a 3-bit DSTATE code or a 2-bit LASTERR code (30_encoding.md R72). -/
inductive ReadResult where
  | state (code : BitVec 3)
  | error (code : BitVec 2)
  deriving DecidableEq, Repr

/-- The commands of the control surface (00_scope.md R15). -/
inductive Control where
  | enable
  | disable
  | readState
  | readError
  deriving DecidableEq, Repr

/-- What the environment has issued: one command word at its place in the total order (20_memory.md R60), or a window
in which the bit source and the control surface issue at the same time, each in its own order (R61). -/
inductive Issue where
  | word (w : Word)
  | concurrent (bits : List Bool) (controls : List Control)
  deriving DecidableEq, Repr

end Sys2Proof
end

