-- ==== Sys2Proof/WellFormed.lean ====
section
/-! DEFINITION. Well-formedness checks on what the environment supplies: command words, the command stream, parameters.

An `Instr` needs no check: 30_encoding.md R70 gives a row no operand other than one bit, and both its values are legal. -/

namespace Sys2Proof

/-- The word is assigned: its op field is not 11 (30_encoding.md R73). -/
def Word.wf (w : Word) : Bool := w.extractLsb' 1 2 != 3#2

/-- The issue holds no reserved word. The commands of a concurrent window are typed, so they are always assigned. -/
def Issue.wf : Issue → Bool
  | .word w => Word.wf w
  | .concurrent _ _ => true

/-- No issue of the stream holds a reserved word. -/
def streamWf (is : List Issue) : Bool := is.all Issue.wf

/-- Each policy constant can be exceeded by the counter it is compared with (widths of 00_scope.md R10), whichever value
COUNTER_OVERFLOW has. The defaults of R9 meet it. Log entry 17. -/
def Params.wf (p : Params) : Bool :=
  decide (p.syncTimeout < 65535) && decide (p.preambleMin < 255) && decide (p.maxFrameBits < 65535)

end Sys2Proof
end

