-- ==== Sys2Proof/Decode.lean ====
section
/-! DEFINITION. Register codes, command words, the dispatch key, the decoder (30_encoding.md R70 to R77), the opcode table as data, the encoder, and the event word (R78). -/

namespace Sys2Proof

/-- `zext_n(b)` of one bit (00_scope.md R12). -/
def zextBit (n : Nat) (b : Bool) : BitVec n := (BitVec.ofBool b).setWidth n

/-- The code of DSTATE (10_state.md R25). -/
def DState.code : DState → BitVec 3
  | .off => 0
  | .reset => 1
  | .waiting => 2
  | .prefetch => 3
  | .receiving => 4
  | .unassigned5 => 5
  | .unassigned6 => 6
  | .unassigned7 => 7

/-- The DSTATE a code stands for (10_state.md R25). -/
def DState.ofCode (c : BitVec 3) : DState :=
  match c.toNat with
  | 0 => .off
  | 1 => .reset
  | 2 => .waiting
  | 3 => .prefetch
  | 4 => .receiving
  | 5 => .unassigned5
  | 6 => .unassigned6
  | _ => .unassigned7

/-- A DSTATE code some rule writes: 0 to 4 (10_state.md R36). -/
def DState.assigned (d : DState) : Bool := decide (d.code.toNat ≤ 4)

/-- The code of SSTATE (10_state.md R26). -/
def SState.code : SState → BitVec 2
  | .sreset => 0
  | .sawZero => 1
  | .sawOne => 2
  | .inFlag => 3

/-- The SSTATE a code stands for (10_state.md R26). -/
def SState.ofCode (c : BitVec 2) : SState :=
  match c.toNat with
  | 0 => .sreset
  | 1 => .sawZero
  | 2 => .sawOne
  | _ => .inFlag

/-- The code of LASTERR (10_state.md R33). -/
def LastError.code : LastError → BitVec 2
  | .errNone => 0
  | .errStuff => 1
  | .errNoend => 2
  | .errCrc => 3

/-- The command word of BIT with raw bit `raw` (30_encoding.md R71). -/
def bitWord (raw : Bool) : Word := zextBit 3 raw

/-- The command word of a control-surface command (30_encoding.md R71). -/
def Control.word : Control → Word
  | .enable => 0b010
  | .disable => 0b011
  | .readState => 0b100
  | .readError => 0b101

/-- The dispatch key `K[7:0] = { DSTATE, SSTATE, cmd }` (30_encoding.md R74). -/
def dispatchKey (d : DState) (t : SState) (w : Word) : Key := d.code ++ t.code ++ w

/-- Why a key selects no operation (30_encoding.md R75). -/
inductive DecodeError where
  /-- op = 11: a reserved command word (R73). -/
  | reservedCommand (w : Word)
  /-- BIT while DSTATE is 5, 6 or 7 (R75). -/
  | bitInUnassignedState (d : DState)
  deriving DecidableEq, Repr

/-- BIT with raw bit `raw`: the operation DSTATE and SSTATE select (30_encoding.md R76, 43_packet_handler.md R160). -/
def decodeBit (raw : Bool) (d : DState) (t : SState) : Except DecodeError Instr :=
  match d with
  | .off => .ok (.bitOff raw)
  | .reset => .ok (.bitReset raw)
  | .waiting =>
    match t with
    | .sreset => .ok (.bitSyncReset raw)
    | .sawZero => .ok (.bitSyncSawZero raw)
    | .sawOne => .ok (.bitSyncSawOne raw)
    | .inFlag => .ok (.bitSyncInFlag raw)
  | .prefetch => .ok (.bitPrefetch raw)
  | .receiving => .ok (.bitReceive raw)
  | .unassigned5 => .error (.bitInUnassignedState .unassigned5)
  | .unassigned6 => .error (.bitInUnassignedState .unassigned6)
  | .unassigned7 => .error (.bitInUnassignedState .unassigned7)

/-- The decode procedure on its three arguments (30_encoding.md R76). -/
def decodeCommand (w : Word) (d : DState) (t : SState) : Except DecodeError Instr :=
  let op := w.extractLsb' 1 2
  let dbit := w.getLsbD 0
  if op = 0b11#2 then .error (.reservedCommand w)
  else if op = 0b01#2 then .ok (if dbit then .disable else .enable)
  else if op = 0b10#2 then .ok (if dbit then .readError else .readState)
  else decodeBit dbit d t

/-- The decoder on a dispatch key: its fields (30_encoding.md R74), then the decode procedure (R76). -/
def decode (k : Key) : Except DecodeError Instr :=
  decodeCommand (k.extractLsb' 0 3) (DState.ofCode (k.extractLsb' 5 3)) (SState.ofCode (k.extractLsb' 3 2))

/-- The command word of an instruction (30_encoding.md R71). -/
def Instr.word : Instr → Word
  | .bitOff raw => bitWord raw
  | .bitReset raw => bitWord raw
  | .bitSyncReset raw => bitWord raw
  | .bitSyncSawZero raw => bitWord raw
  | .bitSyncSawOne raw => bitWord raw
  | .bitSyncInFlag raw => bitWord raw
  | .bitPrefetch raw => bitWord raw
  | .bitReceive raw => bitWord raw
  | .enable => Control.word .enable
  | .disable => Control.word .disable
  | .readState => Control.word .readState
  | .readError => Control.word .readError

/-- A row of spec/opcode_table.json: it applies to K when `K &&& mask = pattern` (30_encoding.md R74). -/
structure OpcodeRow where
  mnemonic : String
  pattern : Key
  mask : Key
  deriving DecidableEq, Repr

/-- The row of spec/opcode_table.json an instruction belongs to. -/
def Instr.row : Instr → OpcodeRow
  | .bitOff _ => ⟨"BIT.OFF", 0x00, 0xE6⟩
  | .bitReset _ => ⟨"BIT.RESET", 0x20, 0xE6⟩
  | .bitSyncReset _ => ⟨"BIT.SYNC_RESET", 0x40, 0xFE⟩
  | .bitSyncSawZero _ => ⟨"BIT.SYNC_SAWZERO", 0x48, 0xFE⟩
  | .bitSyncSawOne _ => ⟨"BIT.SYNC_SAWONE", 0x50, 0xFE⟩
  | .bitSyncInFlag _ => ⟨"BIT.SYNC_INFLAG", 0x58, 0xFE⟩
  | .bitPrefetch _ => ⟨"BIT.PREFETCH", 0x60, 0xE6⟩
  | .bitReceive _ => ⟨"BIT.RECEIVE", 0x80, 0xE6⟩
  | .enable => ⟨"ENABLE", 0x02, 0x07⟩
  | .disable => ⟨"DISABLE", 0x03, 0x07⟩
  | .readState => ⟨"READ_STATE", 0x04, 0x07⟩
  | .readError => ⟨"READ_ERROR", 0x05, 0x07⟩

/-- spec/opcode_table.json, in its order. -/
def opcodeTable : List OpcodeRow :=
  [Instr.bitOff false, .bitReset false, .bitSyncReset false, .bitSyncSawZero false, .bitSyncSawOne false,
    .bitSyncInFlag false, .bitPrefetch false, .bitReceive false, .enable, .disable, .readState, .readError].map Instr.row

/-- The row applies to the key (30_encoding.md R74). -/
def OpcodeRow.applies (r : OpcodeRow) (k : Key) : Bool := k &&& r.mask == r.pattern

/-- The bits of the key an instruction's row leaves free: those outside its mask and, in a BIT row, other than the
operand `K[0] = RAW` (opcode_table.json: SSTATE, or DSTATE and SSTATE). -/
def Instr.dontCare (i : Instr) : Key := ~~~ (i.row.mask ||| 1#8)

/-- The key of an instruction, its don't-care bits taken from `fill` (30_encoding.md R74). -/
def encodeWith (i : Instr) (fill : Key) : Key :=
  i.row.pattern ||| i.word.setWidth 8 ||| (fill &&& i.dontCare)

/-- The key of an instruction with every don't-care bit 0. -/
def encode (i : Instr) : Key := encodeWith i 0

/-- The decoder on a table word: `K` numbered as the table numbers it. A word with a bit above `K[7]` is no key. -/
def decodeTableWord (nbits w : Nat) : Option Instr :=
  let k := w % 2 ^ nbits
  if k < 256 then
    match decode (BitVec.ofNat 8 k) with
    | .ok i => some i
    | .error _ => none
  else none

/-- The 11-bit event word `{kind, arg}` (30_encoding.md R78). -/
def Event.word : Event → BitVec 11
  | .beginPacket ch => (0b001#3 ++ zextBit 8 ch : BitVec 11)
  | .append b => (0b010#3 ++ b : BitVec 11)
  | .commit => (0b011#3 ++ 0#8 : BitVec 11)
  | .discard => (0b100#3 ++ 0#8 : BitVec 11)
  | .hop ch => (0b101#3 ++ zextBit 8 ch : BitVec 11)

/-- The event an event word stands for; none for a word no event has (30_encoding.md R78). -/
def Event.ofWord (ev : BitVec 11) : Option Event :=
  let kind := ev.extractLsb' 8 3
  let arg : Byte := ev.extractLsb' 0 8
  if kind = 0b001#3 ∧ arg.toNat ≤ 1 then some (.beginPacket (arg.getLsbD 0))
  else if kind = 0b010#3 then some (.append arg)
  else if kind = 0b011#3 ∧ arg = 0 then some .commit
  else if kind = 0b100#3 ∧ arg = 0 then some .discard
  else if kind = 0b101#3 ∧ arg.toNat ≤ 1 then some (.hop (arg.getLsbD 0))
  else none

end Sys2Proof
end

