-- ==== Sys2Proof/Machine/State.lean ====
section
/-! DEFINITION. The state of the block: the twelve registers of 10_state.md R20, and the fields the model adds to hold its inputs, its outputs, its parameters and its draws of free values. -/

namespace Sys2Proof.Machine

/-- The machine's state, plain data. -/
structure State where
  /-- RAWPREV (R23). -/
  rawprev : Bool
  /-- WIN (R24). -/
  win : BitVec 16
  /-- DSTATE (R25). -/
  dstate : DState
  /-- SSTATE (R26). -/
  sstate : SState
  /-- SCOUNT (R27). -/
  scount : BitVec 8
  /-- BITCNT (R28). -/
  bitcnt : BitVec 16
  /-- RUN (R29). -/
  run : BitVec 3
  /-- CRC (R30). -/
  crc : BitVec 16
  /-- BYTE (R31). -/
  byte : BitVec 8
  /-- BYTECNT (R31). -/
  bytecnt : BitVec 3
  /-- CHAN (R32). -/
  chan : Bool
  /-- LASTERR (R33). -/
  lasterr : LastError
  /-- The parameters the block was built with (00_scope.md R9 to R11). No step writes them. DESIGN CHOICE, log entry 3. -/
  params : Params
  /-- The commands issued and not yet taken, next one first. DESIGN CHOICE, log entry 1. -/
  stream : List Issue
  /-- The events emitted so far, oldest first (R14, R241). DESIGN CHOICE, log entry 6. -/
  events : List Event
  /-- The results of the read commands so far, oldest first (R14, R241). DESIGN CHOICE, log entry 6. -/
  results : List ReadResult
  /-- How many free values have been drawn. DESIGN CHOICE, log entry 7. -/
  draws : Nat
  deriving DecidableEq, Repr

/-- Reasons a step stops the machine with a fault. There are none: the four errors of 60_exceptions.md R200 are ordinary
outcomes of a step (R212), so nothing raises a fault. Safe: no behaviour is cut off. -/
inductive Fault where
  deriving DecidableEq, Repr

/-- Reasons a step gives a command no meaning. -/
inductive Refusal where
  /-- Raised by an arm of `exec` that has no meaning yet. No arm raises it. Safe: the machine stops. -/
  | notModelled (mnemonic : String)
  /-- Raised by the decoder on command word 110 or 111 (43_packet_handler.md R171). Safe: the machine stops. -/
  | reservedCommand (w : Word)
  /-- Raised by the decoder on BIT while DSTATE is 5, 6 or 7 (43_packet_handler.md R172). Safe: the machine stops. -/
  | bitInUnassignedState (d : DState)
  deriving DecidableEq, Repr

/-- Every register at its power-on value (10_state.md R38), every field of the model's own as given. -/
def State.powerOn (p : Params) (is : List Issue) (es : List Event) (rs : List ReadResult) (n : Nat) : State where
  rawprev := false
  win := 0x0000#16
  dstate := .off
  sstate := .sreset
  scount := 0#8
  bitcnt := 0#16
  run := 0#3
  crc := Config.crcSeed
  byte := 0x00#8
  bytecnt := 0#3
  chan := p.initialChan
  lasterr := .errNone
  params := p
  stream := is
  events := es
  results := rs
  draws := n

/-- The machine at power-on with every parameter at its default (10_state.md R38, 00_scope.md R9 to R11): no command
issued, nothing emitted, nothing drawn (log entries 1, 6, 7). -/
def State.reset : State := State.powerOn Params.default [] [] [] 0

end Sys2Proof.Machine
end

