-- ==== Sys2Proof/Machine/Crc.lean ====
section
/-! DEFINITION. The CRC-16 step (44_crc.md R191), its byte-wise equivalent (R195), and the order of a byte's bits (20_memory.md R54). -/

namespace Sys2Proof.Machine

/-- CrcStep (44_crc.md R191). -/
def crcStep (crc : BitVec 16) (b : Bool) : BitVec 16 :=
  let x := crc ^^^ zextBit 16 b
  if x.getLsbD 0 then (x >>> 1) ^^^ Config.crcPoly else x >>> 1

/-- CrcStep over bits in time order. -/
def crcBits (crc : BitVec 16) (bits : List Bool) : BitVec 16 := bits.foldl crcStep crc

/-- The bits of a value of `n` bits, bit 0 first. -/
def lsbBits {n : Nat} (v : BitVec n) : List Bool := (List.range n).map v.getLsbD

/-- The bits of a byte in transmission order: bit 0 first (20_memory.md R54). -/
def byteBits (b : Byte) : List Bool := lsbBits b

/-- The bits of bytes in transmission order. -/
def bytesBits (bs : List Byte) : List Bool := bs.flatMap byteBits

/-- The byte whose bits in transmission order are given, at most 8 of them (20_memory.md R54). -/
def byteOfBits (bits : List Bool) : Byte :=
  bits.foldr (fun b acc => (acc <<< 1) ||| zextBit 8 b) 0

/-- `T[i]`: CrcStep applied 8 times with 0 (44_crc.md R195). -/
def crcTable (i : Byte) : BitVec 16 := crcBits (i.setWidth 16) (List.replicate 8 false)

/-- CrcByte (44_crc.md R195). -/
def crcByte (crc : BitVec 16) (v : Byte) : BitVec 16 :=
  (crc >>> 8) ^^^ crcTable ((crc ^^^ v.setWidth 16).setWidth 8)

end Sys2Proof.Machine
end

