-- ==== Sys2Proof/Machine/Operands.lean ====
section
/-! DEFINITION. What the operations read and the values they form from it: the decoded bit, the window, the assembler input, the byte under assembly, the counters. -/

namespace Sys2Proof.Machine

/-- NRZI decode: `D = !(RAWPREV ^ RAW)` (40_nrzi.md R101). -/
def nrziDecode (prev raw : Bool) : Bool := !(prev ^^ raw)

/-- The decoded bits of raw bits in time order, from the raw bit before them (40_nrzi.md R105). -/
def decodeLine (prev : Bool) : List Bool → List Bool
  | [] => []
  | r :: rs => nrziDecode prev r :: decodeLine r rs

/-- The window after a decoded bit: `(WIN >> 1) | (D << 15)` (40_nrzi.md R103). -/
def shiftWindow (w : BitVec 16) (d : Bool) : BitVec 16 := (w >>> 1) ||| (zextBit 16 d <<< 15)

/-- The assembler input `A = WIN[7]` (42_frame_assembler.md R131). -/
def assemblerInput (w : BitVec 16) : Bool := w.getLsbD 7

/-- `WIN[15:8]`, the eight most recent decoded bits (42_frame_assembler.md R138). -/
def newestByte (w : BitVec 16) : Byte := w.extractLsb' 8 8

/-- The byte under assembly after a destuffed bit: `(BYTE >> 1) | (A << 7)` (42_frame_assembler.md R133). -/
def shiftByte (b : Byte) (a : Bool) : Byte := (b >>> 1) ||| (zextBit 8 a <<< 7)

/-- `inc(c)` of an N-bit counter (10_state.md R37). -/
def inc {n : Nat} (mode : CounterOverflow) (c : BitVec n) : BitVec n :=
  if c = BitVec.allOnes n then
    match mode with
    | .saturate => c
    | .wrap => 0
  else c + 1

end Sys2Proof.Machine
end

