-- ==== Sys2Proof/Machine/Flags.lean ====
section
/-! DEFINITION. The block has no condition codes (10_state.md R34). Here stand the conditions its operations test, and what each outcome of ExitToReset records and emits. -/

namespace Sys2Proof.Machine

/-- `BITCNT > SYNC_TIMEOUT` (41_synchronizer.md R111). -/
abbrev SyncTimedOut (p : Params) (bitcnt : BitVec 16) : Prop := bitcnt.toNat > p.syncTimeout

/-- `SCOUNT > PREAMBLE_MIN` (41_synchronizer.md R112, R113). -/
abbrev RunLongEnough (p : Params) (scount : BitVec 8) : Prop := scount.toNat > p.preambleMin

/-- `RUN == 5`: a stuff bit is mandatory (42_frame_assembler.md R132). -/
abbrev StuffBitDue (run : BitVec 3) : Prop := run = Config.stuffRun

/-- `BITCNT > MAX_FRAME_BITS` (42_frame_assembler.md R137). -/
abbrev FrameTooLong (p : Params) (bitcnt : BitVec 16) : Prop := bitcnt.toNat > p.maxFrameBits

/-- `WIN[15:8] == FLAG` (42_frame_assembler.md R138). -/
abbrev EndFlagSeen (win : BitVec 16) : Prop := newestByte win = Config.flag

/-- `CRC == CRC_RESIDUE` (44_crc.md R193). -/
abbrev CrcValid (crc : BitVec 16) : Prop := crc = Config.crcResidue

/-- What an outcome writes to LASTERR; none where it leaves LASTERR unchanged (43_packet_handler.md R165). -/
def recordedError : ExitOutcome → Option LastError
  | .commit => none
  | .crcMismatch => some .errCrc
  | .stuffBitViolation => some .errStuff
  | .noEndFlag => some .errNoend
  | .syncTimeout => none

/-- The sink event of an outcome: COMMIT or DISCARD (43_packet_handler.md R165). -/
def packetEvent : ExitOutcome → Event
  | .commit => .commit
  | .crcMismatch => .discard
  | .stuffBitViolation => .discard
  | .noEndFlag => .discard
  | .syncTimeout => .discard

end Sys2Proof.Machine
end

