-- ==== Sys2Proof/Machine/Ops.lean ====
section
/-! DEFINITION. The shared operations: outputs, the BIT prelude, the counters, SyncFound, and the error recovery: ExitToReset (what an exception entry is elsewhere) with the Reset step that follows it (what a return is elsewhere, 60_exceptions.md R207, R209). -/

namespace Sys2Proof.Machine

/-- What a step answers. -/
abbrev StepResult := Host.Outcome State Fault Refusal

/-- `emit E` (00_scope.md R14). -/
def State.emit (s : State) (e : Event) : State := { s with events := s.events ++ [e] }

/-- `return v` of a read command (43_packet_handler.md R169, R170). -/
def State.answer (s : State) (r : ReadResult) : State := { s with results := s.results ++ [r] }

/-- The decoded bit D of BIT with raw bit `raw` (40_nrzi.md R100, R101). -/
def State.decodedBit (s : State) (raw : Bool) : Bool := nrziDecode s.rawprev raw

/-- The BIT prelude: RAWPREV and WIN (40_nrzi.md R100, R102, R103). -/
def nrziPrelude (raw : Bool) (s : State) : State :=
  { s with rawprev := raw, win := shiftWindow s.win (s.decodedBit raw) }

/-- `BITCNT <- inc(BITCNT)`, the one increment of BITCNT (10_state.md R28, 41_synchronizer.md R110, 42_frame_assembler.md
R137, 43_packet_handler.md R163). -/
def countBit (s : State) : State := { s with bitcnt := inc s.params.counterOverflow s.bitcnt }

/-- `SCOUNT <- inc(SCOUNT)` (41_synchronizer.md R112, R113). -/
def countRun (s : State) : State := { s with scount := inc s.params.counterOverflow s.scount }

/-- `SCOUNT <- SCOUNT - 1` (41_synchronizer.md R114). At SCOUNT = 0, which R36 rules out, a free value (log entry 5). -/
def countFlagBit (s : State) : State :=
  if s.scount = 0#8 then { s with scount := Config.scountPastZero s.draws, draws := s.draws + 1 }
  else { s with scount := s.scount - 1#8 }

/-- `RUN <- (A == 1) ? RUN + 1 : 0` (42_frame_assembler.md R134). RUN + 1 at RUN = 7, which R36 rules out, is a free
value (log entry 5). -/
def trackRun (a : Bool) (s : State) : State :=
  if a then
    if s.run = BitVec.allOnes 3 then { s with run := Config.runPastEnd s.draws, draws := s.draws + 1 }
    else { s with run := s.run + 1#3 }
  else { s with run := 0#3 }

/-- The registers of the Frame Assembler at their start values, without BITCNT (43_packet_handler.md R162, R163). -/
def clearAssembler (s : State) : State := { s with run := 0#3, byte := 0x00#8, bytecnt := 0#3, crc := Config.crcSeed }

/-- SyncFound (41_synchronizer.md R115). -/
def syncFound (s : State) : State := { s with dstate := .prefetch, bitcnt := 0#16 }

/-- ExitToReset (43_packet_handler.md R164): COMMIT or DISCARD, LASTERR, the flip of CHAN, HOP, DSTATE. -/
def exitToReset (o : ExitOutcome) (s : State) : State :=
  let s := s.emit (packetEvent o)
  let s := { s with lasterr := (recordedError o).getD s.lasterr }
  let s := { s with chan := !s.chan }
  let s := s.emit (.hop s.chan)
  { s with dstate := .reset }

/-- The Reset step after the prelude (43_packet_handler.md R162). -/
def resetStep (s : State) : State :=
  let s := { s with win := s.win &&& 0x8000#16, bitcnt := 0#16, sstate := .sreset, scount := 0#8 }
  let s := clearAssembler s
  let s := s.emit (.beginPacket s.chan)
  { s with dstate := .waiting }

/-- A hardware reset input, where an implementation has one: every register to its power-on value and nothing else
(70_reset_and_hazards.md R230). No command and no step uses it (log entry 16). -/
def State.loadPowerOn (s : State) : State := State.powerOn s.params s.stream s.events s.results s.draws

end Sys2Proof.Machine
end

