-- ==== Sys2Proof/Machine/Control.lean ====
section
/-! DEFINITION. The control surface: ENABLE, DISABLE, READ_STATE, READ_ERROR (43_packet_handler.md R167 to R170). -/

namespace Sys2Proof.Machine

/-- ENABLE (43_packet_handler.md R167). -/
def execEnable (s : State) : StepResult := .next (if s.dstate = .off then { s with dstate := .reset } else s)

/-- DISABLE (43_packet_handler.md R168). -/
def execDisable (s : State) : StepResult := .next { s with dstate := .off }

/-- READ_STATE (43_packet_handler.md R169). -/
def execReadState (s : State) : StepResult := .next (s.answer (.state s.dstate.code))

/-- READ_ERROR (43_packet_handler.md R170). -/
def execReadError (s : State) : StepResult := .next (s.answer (.error s.lasterr.code))

end Sys2Proof.Machine
end

