-- ==== Sys2Proof/Machine/FrameAssembler.lean ====
section
/-! DEFINITION. The Frame Assembler: BIT in RECEIVING (42_frame_assembler.md R130 to R140), the source's steps 1 to 6. -/

namespace Sys2Proof.Machine

/-- Steps 2 and 3: the destuffed bit enters BYTE, RUN and CRC (R133, R134, R135). -/
def takeBit (a : Bool) (s : State) : State :=
  let s := trackRun a { s with byte := shiftByte s.byte a }
  { s with crc := crcStep s.crc a }

/-- Step 4: the byte flush (R136). -/
def flushByte (s : State) : State :=
  if s.bytecnt = 7#3 then { s.emit (.append s.byte) with byte := 0x00#8, bytecnt := 0#3 }
  else { s with bytecnt := s.bytecnt + 1#3 }

/-- Step 6: the end flag and the verdict (R138, R139). -/
def endFlagTest (s : State) : State :=
  if EndFlagSeen s.win then
    if CrcValid s.crc then exitToReset .commit s else exitToReset .crcMismatch s
  else s

/-- BIT.RECEIVE (R130). -/
def execBitReceive (raw : Bool) (s : State) : StepResult :=
  let s := nrziPrelude raw s
  let a := assemblerInput s.win
  .next (if StuffBitDue s.run then
      if a then exitToReset .stuffBitViolation s else endFlagTest { s with run := 0#3 }
    else
      let s := countBit (flushByte (takeBit a s))
      if FrameTooLong s.params s.bitcnt then exitToReset .noEndFlag s else endFlagTest s)

end Sys2Proof.Machine
end

