-- ==== Sys2Proof/Machine/PacketHandler.lean ====
section
/-! DEFINITION. The Packet Handler's own BIT operations: OFF, RESET, PREFETCH (43_packet_handler.md R161 to R163). -/

namespace Sys2Proof.Machine

/-- BIT.OFF (43_packet_handler.md R161). -/
def execBitOff (raw : Bool) (s : State) : StepResult := .next (nrziPrelude raw s)

/-- BIT.RESET (43_packet_handler.md R162). -/
def execBitReset (raw : Bool) (s : State) : StepResult := .next (resetStep (nrziPrelude raw s))

/-- BIT.PREFETCH (43_packet_handler.md R163), its count by `inc` (10_state.md R28). -/
def execBitPrefetch (raw : Bool) (s : State) : StepResult :=
  let s := countBit (nrziPrelude raw s)
  .next (if s.bitcnt = Config.prefetchBits then { clearAssembler s with bitcnt := 0#16, dstate := .receiving } else s)

end Sys2Proof.Machine
end

