-- ==== Sys2Proof/Machine/Synchronizer.lean ====
section
/-! DEFINITION. The Synchronizer: BIT in WAITING, one meaning per SSTATE (41_synchronizer.md R110 to R115). -/

namespace Sys2Proof.Machine

/-- Common start of the WAITING operations: the prelude (40_nrzi.md R100), then the bit count (41_synchronizer.md R110). -/
def syncPrelude (raw : Bool) (s : State) : State := countBit (nrziPrelude raw s)

/-- A repeated bit in SAWZERO or SAWONE: into the flag with `remain` bits to come, or a restart (R112, R113). -/
def repeatedBit (remain : BitVec 8) (s : State) : State :=
  if RunLongEnough s.params s.scount then { s with sstate := .inFlag, scount := remain }
  else { s with sstate := .sreset }

/-- BIT.SYNC_RESET (41_synchronizer.md R111). -/
def execBitSyncReset (raw : Bool) (s : State) : StepResult :=
  let d := s.decodedBit raw
  let s := syncPrelude raw s
  .next (if SyncTimedOut s.params s.bitcnt then exitToReset .syncTimeout s
    else { s with scount := 0#8, sstate := if d then .sawOne else .sawZero })

/-- BIT.SYNC_SAWZERO (41_synchronizer.md R112). -/
def execBitSyncSawZero (raw : Bool) (s : State) : StepResult :=
  let d := s.decodedBit raw
  let s := syncPrelude raw s
  .next (if d then { countRun s with sstate := .sawOne } else repeatedBit Config.flagRemainSaw0 s)

/-- BIT.SYNC_SAWONE (41_synchronizer.md R113). -/
def execBitSyncSawOne (raw : Bool) (s : State) : StepResult :=
  let d := s.decodedBit raw
  let s := syncPrelude raw s
  .next (if d then repeatedBit Config.flagRemainSaw1 s else { countRun s with sstate := .sawZero })

/-- BIT.SYNC_INFLAG (41_synchronizer.md R114). -/
def execBitSyncInFlag (raw : Bool) (s : State) : StepResult :=
  let d := s.decodedBit raw
  let s := countFlagBit (syncPrelude raw s)
  .next (if s.scount ≠ 0#8 then (if d then s else { s with sstate := .sreset })
    else (if d then { s with sstate := .sreset } else syncFound s))

end Sys2Proof.Machine
end

