-- ==== Sys2Proof/Machine/Dispatch.lean ====
section
/-! DEFINITION. exec: the meaning of each instruction, one arm per row of spec/opcode_table.json. -/

namespace Sys2Proof.Machine

def exec (i : Instr) (s : State) : Host.Outcome State Fault Refusal :=
  match i with
  | .bitOff raw => Sys2Proof.Machine.execBitOff raw s
  | .bitReset raw => Sys2Proof.Machine.execBitReset raw s
  | .bitSyncReset raw => Sys2Proof.Machine.execBitSyncReset raw s
  | .bitSyncSawZero raw => Sys2Proof.Machine.execBitSyncSawZero raw s
  | .bitSyncSawOne raw => Sys2Proof.Machine.execBitSyncSawOne raw s
  | .bitSyncInFlag raw => Sys2Proof.Machine.execBitSyncInFlag raw s
  | .bitPrefetch raw => Sys2Proof.Machine.execBitPrefetch raw s
  | .bitReceive raw => Sys2Proof.Machine.execBitReceive raw s
  | .enable => Sys2Proof.Machine.execEnable s
  | .disable => Sys2Proof.Machine.execDisable s
  | .readState => Sys2Proof.Machine.execReadState s
  | .readError => Sys2Proof.Machine.execReadError s

end Sys2Proof.Machine
end

