-- ==== Sys2Proof/Machine/Fetch.lean ====
section
/-! DEFINITION. Taking the next command from the stream: the total order of 20_memory.md R60, and the open order of R61 inside a concurrent window. -/

namespace Sys2Proof.Machine

/-- The next command word, the rest of the stream and the draw counter after it; none where no command is left. Where
both agents of a window have a command waiting, the free value `Config.controlFirst` says whose goes first (R61), and
each agent's own order is kept. -/
def nextCommand : List Issue → Nat → Option (Word × List Issue × Nat)
  | [], _ => none
  | .word w :: rest, n => some (w, rest, n)
  | .concurrent [] [] :: rest, n => nextCommand rest n
  | .concurrent (b :: bs) [] :: rest, n => some (bitWord b, .concurrent bs [] :: rest, n)
  | .concurrent [] (c :: cs) :: rest, n => some (c.word, .concurrent [] cs :: rest, n)
  | .concurrent (b :: bs) (c :: cs) :: rest, n =>
    if Config.controlFirst n then some (c.word, .concurrent (b :: bs) cs :: rest, n + 1)
    else some (bitWord b, .concurrent bs (c :: cs) :: rest, n + 1)

/-- The next command word and the state with it taken from the stream. -/
def fetch (s : State) : Option (Word × State) :=
  match nextCommand s.stream s.draws with
  | none => none
  | some (w, rest, n) => some (w, { s with stream := rest, draws := n })

end Sys2Proof.Machine
end

