-- ==== Sys2Proof/Machine/Command.lean ====
section
/-! DEFINITION. One command of the block: the dispatch key of the command word in the present state (30_encoding.md R74), its decoding (R76), and the meaning it selects; a list of commands in order; and how a table word is placed for the next step. -/

namespace Sys2Proof.Machine

/-- The refusal of a key that no row matches (43_packet_handler.md R171, R172). -/
def refusalOf : DecodeError → Refusal
  | .reservedCommand w => .reservedCommand w
  | .bitInUnassignedState d => .bitInUnassignedState d

/-- The dispatch key of a command word in a state (30_encoding.md R74). -/
def State.key (s : State) (w : Word) : Key := dispatchKey s.dstate s.sstate w

/-- One command, executed atomically (20_memory.md R60). -/
def command (w : Word) (s : State) : StepResult :=
  match decode (s.key w) with
  | .ok i => exec i s
  | .error e => .refused (refusalOf e)

/-- Commands in order, stopping at a refusal (70_reset_and_hazards.md R241). -/
def runCommands : List Word → State → StepResult
  | [], s => .next s
  | w :: ws, s =>
    match command w s with
    | .next s' => runCommands ws s'
    | .fault f => .fault f
    | .refused r => .refused r

/-- The state in which K[7:0] = `w` is the key of the very next command: DSTATE and SSTATE are its high fields, and its
command word is next in the stream (log entry 18). -/
def placeKey (s : State) (nbits w : Nat) : State :=
  let k := BitVec.ofNat 8 (w % 2 ^ nbits)
  { s with
    dstate := DState.ofCode (k.extractLsb' 5 3)
    sstate := SState.ofCode (k.extractLsb' 3 2)
    stream := .word (k.extractLsb' 0 3) :: s.stream }

end Sys2Proof.Machine
end

