-- ==== Sys2Proof/Machine/Step.lean ====
section
/-! DEFINITION. The step: the next command of the stream, executed. -/

namespace Sys2Proof.Machine

/-- One step: take the next command and execute it. Where no command has been issued, nothing happens (DEDUCED, log
entry 2). -/
def step (s : State) : Host.Outcome State Fault Refusal :=
  match fetch s with
  | none => .next s
  | some (w, s') => command w s'

/-- `s` with the instruction of a table word placed so that the very next step runs it (log entry 18). -/
def State.withFetchWord (s : State) (nbits w : Nat) : State := placeKey s nbits w

end Sys2Proof.Machine
end

