-- ==== Sys2Proof/Machine/Assembler.lean ====
section
/-! DEFINITION. The test bench's side: NRZI encoding, bit stuffing, the frame check sequence, and the assembler lines of 30_encoding.md R80 and R81. Nothing the block does depends on this file. -/

namespace Sys2Proof.Machine

/-- NRZI encoding from level `lev`: a 1 keeps the level, a 0 flips it (30_encoding.md R81, 40_nrzi.md R105). -/
def nrziEncode (lev : Bool) : List Bool → List Bool
  | [] => []
  | l :: ls =>
    let r := if l then lev else !lev
    r :: nrziEncode r ls

/-- The level after raw bits: the last of them, or the level before where there are none (30_encoding.md R81). -/
def levelAfter (lev : Bool) (raws : List Bool) : Bool := raws.getLastD lev

/-- `n` alternating bits starting with `f` (30_encoding.md R81, PREAMBLE). -/
def alternating : Nat → Bool → List Bool
  | 0, _ => []
  | n + 1, f => f :: alternating n (!f)

/-- The flag `0111 1110` in transmission order (30_encoding.md R81, FLAGBITS). -/
def flagBits : List Bool := [false, true, true, true, true, true, true, false]

/-- Bit stuffing after `ones` consecutive 1s: a 0 is inserted after every fifth, and the count restarts after it and
after each 0 of the data (30_encoding.md R81, SBYTES). -/
def stuffFrom : Nat → List Bool → List Bool
  | _, [] => []
  | _, false :: bs => false :: stuffFrom 0 bs
  | ones, true :: bs => if ones + 1 = 5 then true :: false :: stuffFrom 0 bs else true :: stuffFrom (ones + 1) bs

/-- The frame check sequence of a payload in sending order: the complemented CRC, low byte first (44_crc.md R196). -/
def fcsBytes (bs : List Byte) : List Byte :=
  let f := ~~~ crcBits Config.crcSeed (bytesBits bs)
  [f.extractLsb' 0 8, f.extractLsb' 8 8]

/-- The logical bits between the two flags of FRAME: the payload and its FCS, stuffed (30_encoding.md R81). -/
def frameBody (bs : List Byte) : List Bool := stuffFrom 0 (bytesBits (bs ++ fcsBytes bs))

/-- The logical bits of FRAME (30_encoding.md R81). -/
def frameBits (bs : List Byte) : List Bool := flagBits ++ frameBody bs ++ flagBits

/-- An assembler line: a command (30_encoding.md R80), a pseudo-instruction or the directive LEVEL (R81). -/
inductive AsmLine where
  | bit (r : Bool)
  | control (c : Control)
  | raw (rs : List Bool)
  | lbits (ls : List Bool)
  | lbytes (bs : List Byte)
  | preamble (n : Nat) (f : Bool)
  | flagbits
  | sbytes (bs : List Byte)
  | frame (bs : List Byte)
  | level (v : Bool)
  deriving DecidableEq, Repr

/-- LBITS: the words of logical bits from level `lev`, and the level after them (30_encoding.md R81). -/
def lbitsWords (lev : Bool) (ls : List Bool) : List Word × Bool :=
  let rs := nrziEncode lev ls
  (rs.map bitWord, levelAfter lev rs)

/-- The words of a line from level `lev`, and the level after it (30_encoding.md R80, R81). -/
def expandLine (lev : Bool) : AsmLine → List Word × Bool
  | .bit r => ([bitWord r], r)
  | .control c => ([c.word], lev)
  | .raw rs => (rs.map bitWord, levelAfter lev rs)
  | .lbits ls => lbitsWords lev ls
  | .lbytes bs => lbitsWords lev (bytesBits bs)
  | .preamble n f => lbitsWords lev (alternating n f)
  | .flagbits => lbitsWords lev flagBits
  | .sbytes bs => lbitsWords lev (stuffFrom 0 (bytesBits bs))
  | .frame bs => lbitsWords lev (frameBits bs)
  | .level v => ([], v)

/-- The words of a program from level `lev`. -/
def assembleFrom (lev : Bool) : List AsmLine → List Word
  | [] => []
  | l :: ls => (expandLine lev l).1 ++ assembleFrom (expandLine lev l).2 ls

/-- The words of a program; the level starts at the power-on RAWPREV, 0 (30_encoding.md R81). -/
def assemble (ls : List AsmLine) : List Word := assembleFrom false ls

/-- A character of an assembler line that separates and is otherwise ignored (log entry 15). -/
def isBlank (c : Char) : Bool := c == ' ' || c == '\t' || c == '\r'

/-- A capital letter's small form; every other character as it is (30_encoding.md R80: case-insensitive). -/
def lowerChar (c : Char) : Char := if 65 ≤ c.toNat ∧ c.toNat ≤ 90 then Char.ofNat (c.toNat + 32) else c

/-- The pieces of a text between the characters `sep` holds of. -/
def splitChars (sep : Char → Bool) (cs : List Char) : List (List Char) :=
  cs.foldr (fun c acc => if sep c then [] :: acc else (c :: acc.headD []) :: acc.tail) [[]]

/-- A bit written `0` or `1`. -/
def parseBit : List Char → Option Bool
  | ['0'] => some false
  | ['1'] => some true
  | _ => none

/-- A quoted bit string without its blanks (30_encoding.md R81: spaces ignored). -/
def parseQuoted (cs : List Char) : Option (List Bool) :=
  match cs with
  | '"' :: rest =>
    if rest.getLast? = some '"' then rest.dropLast.mapM fun c => parseBit [c] else none
  | _ => none

/-- The value of a digit of base 16 in small letters. -/
def digitValue (c : Char) : Option Nat :=
  let n := c.toNat
  if 48 ≤ n ∧ n ≤ 57 then some (n - 48) else if 97 ≤ n ∧ n ≤ 102 then some (n - 87) else none

/-- A byte written as two hexadecimal digits, as in 95_test_vectors.md (log entry 15). -/
def parseByte : List Char → Option Byte
  | [h, l] => do
    let hi ← digitValue h
    let lo ← digitValue l
    pure (BitVec.ofNat 8 (16 * hi + lo))
  | _ => none

/-- Bytes separated by commas; none at all is the empty list. -/
def parseBytes (cs : List Char) : Option (List Byte) :=
  if cs.isEmpty then some [] else (splitChars (· == ',') cs).mapM parseByte

/-- A decimal number of at least one digit. -/
def parseNat (cs : List Char) : Option Nat :=
  if cs.isEmpty then none
  else cs.foldlM (fun n c => (digitValue c).bind fun d => if d < 10 then some (10 * n + d) else none) 0

/-- The arguments of PREAMBLE: a count and a bit (30_encoding.md R81). -/
def parsePreamble (cs : List Char) : Option AsmLine :=
  match splitChars (· == ',') cs with
  | [n, f] => do pure (.preamble (← parseNat n) (← parseBit f))
  | _ => none

/-- A line from its mnemonic in small letters and its argument text without blanks (30_encoding.md R80, R81). -/
def parseOperation (mnemonic arg : List Char) : Option AsmLine :=
  if mnemonic = ['b', 'i', 't'] then (parseBit arg).map .bit
  else if mnemonic = ['e', 'n', 'a', 'b', 'l', 'e'] ∧ arg = [] then some (.control .enable)
  else if mnemonic = ['d', 'i', 's', 'a', 'b', 'l', 'e'] ∧ arg = [] then some (.control .disable)
  else if mnemonic = ['r', 'e', 'a', 'd', '_', 's', 't', 'a', 't', 'e'] ∧ arg = [] then some (.control .readState)
  else if mnemonic = ['r', 'e', 'a', 'd', '_', 'e', 'r', 'r', 'o', 'r'] ∧ arg = [] then some (.control .readError)
  else if mnemonic = ['r', 'a', 'w'] then (parseQuoted arg).map .raw
  else if mnemonic = ['l', 'b', 'i', 't', 's'] then (parseQuoted arg).map .lbits
  else if mnemonic = ['l', 'b', 'y', 't', 'e', 's'] then (parseBytes arg).map .lbytes
  else if mnemonic = ['p', 'r', 'e', 'a', 'm', 'b', 'l', 'e'] then parsePreamble arg
  else if mnemonic = ['f', 'l', 'a', 'g', 'b', 'i', 't', 's'] ∧ arg = [] then some .flagbits
  else if mnemonic = ['s', 'b', 'y', 't', 'e', 's'] then (parseBytes arg).map .sbytes
  else if mnemonic = ['f', 'r', 'a', 'm', 'e'] then (parseBytes arg).map .frame
  else if mnemonic = ['l', 'e', 'v', 'e', 'l'] then (parseBit arg).map .level
  else none

/-- One line of text: `;` starts a comment, letters of either case are alike (30_encoding.md R80). The outer none is a
line that is not of the syntax, `some none` a line with nothing before its comment. -/
def parseLine (line : List Char) : Option (Option AsmLine) :=
  let code := (line.takeWhile (· != ';')).map lowerChar
  match (splitChars isBlank code).filter (!·.isEmpty) with
  | [] => some none
  | mnemonic :: args => (parseOperation mnemonic args.flatten).map some

/-- A program text, one line after another (30_encoding.md R80). -/
def parseProgram (text : List Char) : Option (List AsmLine) :=
  ((splitChars (· == '\n') text).mapM parseLine).map fun ls => ls.filterMap id

end Sys2Proof.Machine
end

