-- ==== Sys2Proof/Machine/Sink.lean ====
section
/-! DEFINITION. The meaning of the events outside the block: the output sink's contents (20_memory.md R51, R57) and the channel the receiver was last commanded to (R63), both computed from the event history. -/

namespace Sys2Proof.Machine

/-- A packet of the sink: its channel tag and its bytes in arrival order (20_memory.md R51). -/
structure Packet where
  chan : Bool
  bytes : List Byte
  deriving DecidableEq, Repr

/-- The sink: the committed packets, oldest first, and at most one open packet (20_memory.md R51). -/
structure Sink where
  committed : List Packet
  current : Option Packet
  deriving DecidableEq, Repr

/-- The sink before any event. -/
def Sink.empty : Sink := ⟨[], none⟩

/-- The sink contract (20_memory.md R57), event by event. BEGIN drops an open packet. APPEND, COMMIT and DISCARD with no
open packet, which R57 says cannot happen, have no result (log entry 12). -/
def Sink.accept (k : Sink) : Event → Option Sink
  | .beginPacket ch => some { k with current := some ⟨ch, []⟩ }
  | .append b => k.current.map fun p => { k with current := some { p with bytes := p.bytes ++ [b] } }
  | .commit => k.current.map fun p => ⟨k.committed ++ [p], none⟩
  | .discard => k.current.map fun _ => { k with current := none }
  | .hop _ => some k

/-- The sink after events in order. -/
def Sink.acceptAll (k : Sink) : List Event → Option Sink
  | [] => some k
  | e :: es => (k.accept e).bind fun k' => k'.acceptAll es

/-- The sink's contents after the events emitted so far (70_reset_and_hazards.md R241). -/
def State.sink (s : State) : Option Sink := Sink.empty.acceptAll s.events

/-- The channel after one event: HOP retunes (20_memory.md R56). -/
def retune (ch : Bool) : Event → Bool
  | .hop ch' => ch'
  | .beginPacket _ => ch
  | .append _ => ch
  | .commit => ch
  | .discard => ch

/-- The channel the receiver was last commanded to, starting on INITIAL_CHAN as boot requires (70_reset_and_hazards.md
R232; log entry 19). -/
def State.commandedChannel (s : State) : Bool := s.events.foldl retune s.params.initialChan

end Sys2Proof.Machine
end

