-- ==== Sys2Proof/Safety.lean ====
section
/-! DEFINITION. The terms claims are stated in: feeding logical bits, the event lists a command may emit, the invariants of the registers and of the outputs, and what two runs that cannot be told apart agree on. -/

namespace Sys2Proof.Machine

/-- BIT commands that carry the logical bits `ds`, NRZI-encoded from the line level the block holds (40_nrzi.md R105). -/
def feed (ds : List Bool) (s : State) : StepResult :=
  runCommands ((nrziEncode s.rawprev ds).map bitWord) s

/-- A command word of the BIT group, op = 00 (30_encoding.md R71). -/
def isBitWord (w : Word) : Bool := w.extractLsb' 1 2 == 0#2

/-- The event lists one command may emit while CHAN is `ch` (20_memory.md R56). -/
def AllowedEventList (ch : Bool) (es : List Event) : Prop :=
  es = [] ∨ es = [.beginPacket ch] ∨ (∃ b, es = [.append b]) ∨ es = [.discard, .hop (!ch)] ∨
    (∃ b, es = [.append b, .discard, .hop (!ch)]) ∨ es = [.commit, .hop (!ch)] ∨
    ∃ b, es = [.append b, .commit, .hop (!ch)]

/-- The reachable-state invariant of the registers (10_state.md R36). SSTATE is read only while DSTATE is WAITING
(R26), so its clause speaks of that DSTATE. -/
structure RegistersOk (s : State) : Prop where
  dstate_assigned : s.dstate.assigned = true
  run_le : s.run.toNat ≤ 5
  bytecnt_le : s.bytecnt.toNat ≤ 7
  flag_bits_left : s.dstate = .waiting → s.sstate = .inFlag → 1 ≤ s.scount.toNat ∧ s.scount.toNat ≤ 7
  prefetch_bits : s.dstate = .prefetch → s.bitcnt.toNat ≤ 7
  frame_bits : s.dstate = .receiving → s.bitcnt.toNat ≤ s.params.maxFrameBits

/-- The destuffed bits received since the last flush, earliest first: BYTE's high BYTECNT bits (10_state.md R31). -/
def State.partialBits (s : State) : List Bool := (byteBits s.byte).drop (8 - s.bytecnt.toNat)

/-- What makes a packet fit to be committed: with fewer than eight further bits, which were never flushed, its bytes leave
the CRC residue (44_crc.md R193, 42_frame_assembler.md R143), and its bits are within MAX_FRAME_BITS wherever BITCNT can
exceed that (R146). -/
def ValidPacket (p : Params) (k : Packet) : Prop :=
  ∃ tail : List Bool, tail.length < 8 ∧
    crcBits Config.crcSeed (bytesBits k.bytes ++ tail) = Config.crcResidue ∧
    (p.wf = true → 8 * k.bytes.length + tail.length ≤ p.maxFrameBits)

/-- The sink's contents fit the registers: while an attempt is under way its packet is open and tagged CHAN; in RECEIVING
the packet's bytes and the bits not yet flushed are what CRC and BITCNT have counted (10_state.md R30, R31, 42_frame_assembler.md
R135 to R137); and every committed packet is valid. -/
structure SinkOk (s : State) (k : Sink) : Prop where
  opened : s.dstate = .waiting ∨ s.dstate = .prefetch → k.current = some ⟨s.chan, []⟩
  receiving : s.dstate = .receiving → ∃ bytes, k.current = some ⟨s.chan, bytes⟩ ∧
    s.crc = crcBits Config.crcSeed (bytesBits bytes ++ s.partialBits) ∧
    (s.params.wf = true → s.bitcnt.toNat = 8 * bytes.length + s.bytecnt.toNat)
  committed : ∀ p ∈ k.committed, ValidPacket s.params p

/-- The outputs are in order: no event came without its open packet (20_memory.md R57), the sink fits the registers, and
the channel last commanded is CHAN (43_packet_handler.md R166). -/
structure OutputsOk (s : State) : Prop where
  sink_ok : ∃ k, s.sink = some k ∧ SinkOk s k
  commanded : s.commandedChannel = s.chan

/-- The invariant of registers and outputs together. -/
structure Inv (s : State) : Prop where
  registers : RegistersOk s
  outputs : OutputsOk s

/-- Two answers that an observer of the events and of the reads cannot tell apart: the same refusal, or next states with
the same history, the same DSTATE and LASTERR, and the same channel. -/
def SameOutputs : StepResult → StepResult → Prop
  | .next s, .next t =>
    s.events = t.events ∧ s.results = t.results ∧ s.dstate = t.dstate ∧ s.lasterr = t.lasterr ∧ s.chan = t.chan
  | .refused r, .refused q => r = q
  | .fault f, .fault _ => nomatch f
  | .next _, .fault _ => False
  | .next _, .refused _ => False
  | .fault _, .next _ => False
  | .fault _, .refused _ => False
  | .refused _, .next _ => False
  | .refused _, .fault _ => False

/-- The words a stream gives up over `n` commands, from draw `k` on. -/
def drain : Nat → List Issue → Nat → List Word
  | 0, _, _ => []
  | n + 1, is, k =>
    match nextCommand is k with
    | none => []
    | some (w, rest, k') => w :: drain n rest k'

end Sys2Proof.Machine
end

