-- ==== Sys2Proof/Certificates/Slice0/Obligations.lean ====
section
/-! DEFINITION. The statements for the provers. Each docstring names the rule of spec/ a statement formalises or rests on. -/

open Sys2Proof Sys2Proof.Machine

/-! ### Power-on and encoding -/

/-- The power-on values (10_state.md R38, 00_scope.md R9 to R11), for the defaults and for every parameter value. That the
stream, the two histories and the draw counter start empty is the model's choice (log entries 1, 6, 7) and is not stated. -/
def Obligations.PowerOnGivesEveryRegisterItsValue : Prop :=
  (State.reset.params = { syncTimeout := 16, preambleMin := 8, maxFrameBits := 1020, counterOverflow := .saturate, initialChan := false } ∧
    State.reset.chan = false) ∧
  ∀ s : State, s = State.reset ∨ (∃ p is es rs n, s = State.powerOn p is es rs n) →
    s.rawprev = false ∧ s.win = 0x0000#16 ∧ s.dstate = .off ∧ s.sstate = .sreset ∧ s.scount = 0#8 ∧ s.bitcnt = 0#16 ∧
    s.run = 0#3 ∧ s.crc = 0xFFFF#16 ∧ s.byte = 0x00#8 ∧ s.bytecnt = 0#3 ∧ s.chan = s.params.initialChan ∧
    s.lasterr = .errNone

/-- Decoding gives back every encoded instruction, whatever its row's don't-care bits hold (30_encoding.md R74, R76). -/
def Obligations.DecodeGivesBackEveryEncodedInstruction : Prop :=
  ∀ (i : Instr) (fill : Key), decode (encodeWith i fill) = .ok i

/-- Each key that decodes has exactly the encoding of what it decodes to (30_encoding.md R74). -/
def Obligations.EveryDecodedKeyIsAnEncodingOfItsInstruction : Prop :=
  ∀ (k : Key) (i : Instr), decode k = .ok i → encodeWith i k = k ∧ i.word = k.extractLsb' 0 3

/-- 30_encoding.md R74 and R75: exactly one row of the opcode table applies to a key with DSTATE at most 4 and op other
than 11, or with a control-surface op in any DSTATE, and it is the row of the decoded instruction; no row applies to any
other key, and the decoder names why. -/
def Obligations.ExactlyOneOpcodeRowAppliesToEachLegalKey : Prop :=
  ∀ k : Key,
    (∀ i, decode k = .ok i → opcodeTable.filter (fun r => r.applies k) = [i.row]) ∧
    (k.extractLsb' 1 2 ≠ 3#2 → k.extractLsb' 1 2 ≠ 0#2 ∨ (k.extractLsb' 5 3).toNat ≤ 4 → ∃ i, decode k = .ok i) ∧
    (k.extractLsb' 1 2 = 3#2 →
      decode k = .error (.reservedCommand (k.extractLsb' 0 3)) ∧ opcodeTable.filter (fun r => r.applies k) = []) ∧
    (k.extractLsb' 1 2 = 0#2 → 5 ≤ (k.extractLsb' 5 3).toNat →
      decode k = .error (.bitInUnassignedState (DState.ofCode (k.extractLsb' 5 3))) ∧
        opcodeTable.filter (fun r => r.applies k) = [])

/-- Words written out from opcode_table.json and 30_encoding.md R71 and R74 decode to their instructions. -/
def Obligations.WrittenOutKeysDecodeAsTheTableSays : Prop :=
  decode 0b00000001#8 = .ok (.bitOff true) ∧ decode 0b00111000#8 = .ok (.bitReset false) ∧
  decode 0b01000001#8 = .ok (.bitSyncReset true) ∧ decode 0b01001000#8 = .ok (.bitSyncSawZero false) ∧
  decode 0b01010001#8 = .ok (.bitSyncSawOne true) ∧ decode 0b01011000#8 = .ok (.bitSyncInFlag false) ∧
  decode 0b01101001#8 = .ok (.bitPrefetch true) ∧ decode 0b10010000#8 = .ok (.bitReceive false) ∧
  decode 0b11100010#8 = .ok .enable ∧ decode 0b10000011#8 = .ok .disable ∧
  decode 0b00111100#8 = .ok .readState ∧ decode 0b10111101#8 = .ok .readError ∧
  decode 0b10000110#8 = .error (.reservedCommand 6#3) ∧ decode 0b10100000#8 = .error (.bitInUnassignedState .unassigned5)

/-- The event word (30_encoding.md R78): kind and argument of each event, the argument zero-extended; a word is read back
as the event whose word it is and no other; and kinds 000, 110 and 111 belong to no event. -/
def Obligations.EventWordsRoundTripAndSkipUnusedKinds : Prop :=
  (∀ ch, (Event.beginPacket ch).word = (if ch then 0b00100000001#11 else 0b00100000000#11) ∧
    (Event.hop ch).word = if ch then 0b10100000001#11 else 0b10100000000#11) ∧
  (∀ b : Byte, (Event.append b).word.extractLsb' 8 3 = 0b010#3 ∧ (Event.append b).word.extractLsb' 0 8 = b) ∧
  Event.commit.word = 0b01100000000#11 ∧ Event.discard.word = 0b10000000000#11 ∧
  (∀ e : Event, Event.ofWord e.word = some e) ∧
  (∀ (ev : BitVec 11) (e : Event), Event.ofWord ev = some e → e.word = ev) ∧
  ∀ e : Event, e.word.extractLsb' 8 3 ≠ 0#3 ∧ e.word.extractLsb' 8 3 ≠ 6#3 ∧ e.word.extractLsb' 8 3 ≠ 7#3

/-! ### The step -/

/-- A step takes the next command word and runs the instruction that DSTATE, SSTATE and the word select (30_encoding.md
R74, R76; 43_packet_handler.md R160); inside a concurrent window with a command of each agent waiting it runs the one or
the other (20_memory.md R61); with no command it changes nothing (the model's choice, log entry 2). -/
def Obligations.StepRunsTheDecodedInstruction : Prop :=
  (∀ (s : State) (w : Word) (rest : List Issue) (i : Instr), s.stream = .word w :: rest →
    decode (dispatchKey s.dstate s.sstate w) = .ok i → step s = exec i { s with stream := rest }) ∧
  (∀ (s : State) (b : Bool) (bs : List Bool) (c : Control) (cs : List Control) (rest : List Issue),
    s.stream = .concurrent (b :: bs) (c :: cs) :: rest →
    step s = command (bitWord b) { s with stream := .concurrent bs (c :: cs) :: rest, draws := s.draws + 1 } ∨
    step s = command c.word { s with stream := .concurrent (b :: bs) cs :: rest, draws := s.draws + 1 }) ∧
  (∀ (s : State) (b : Bool) (bs : List Bool) (rest : List Issue), s.stream = .concurrent (b :: bs) [] :: rest →
    step s = command (bitWord b) { s with stream := .concurrent bs [] :: rest }) ∧
  (∀ (s : State) (c : Control) (cs : List Control) (rest : List Issue), s.stream = .concurrent [] (c :: cs) :: rest →
    step s = command c.word { s with stream := .concurrent [] cs :: rest }) ∧
  (∀ (s : State) (rest : List Issue), s.stream = .concurrent [] [] :: rest → fetch s = fetch { s with stream := rest }) ∧
  ∀ s : State, s.stream = [] → step s = .next s

/-- 43_packet_handler.md R160: in each DSTATE (and SSTATE, in WAITING) a BIT command runs the operation the rule names,
and in codes 5, 6 and 7 it is refused. -/
def Obligations.BitDispatchesOnTheStateThePreviousCommandLeft : Prop :=
  ∀ (s : State) (raw : Bool),
    (s.dstate = .off → command (bitWord raw) s = exec (.bitOff raw) s) ∧
    (s.dstate = .reset → command (bitWord raw) s = exec (.bitReset raw) s) ∧
    (s.dstate = .waiting → s.sstate = .sreset → command (bitWord raw) s = exec (.bitSyncReset raw) s) ∧
    (s.dstate = .waiting → s.sstate = .sawZero → command (bitWord raw) s = exec (.bitSyncSawZero raw) s) ∧
    (s.dstate = .waiting → s.sstate = .sawOne → command (bitWord raw) s = exec (.bitSyncSawOne raw) s) ∧
    (s.dstate = .waiting → s.sstate = .inFlag → command (bitWord raw) s = exec (.bitSyncInFlag raw) s) ∧
    (s.dstate = .prefetch → command (bitWord raw) s = exec (.bitPrefetch raw) s) ∧
    (s.dstate = .receiving → command (bitWord raw) s = exec (.bitReceive raw) s) ∧
    (5 ≤ s.dstate.code.toNat → command (bitWord raw) s = .refused (.bitInUnassignedState s.dstate))

/-- 43_packet_handler.md R171: words 110 and 111 have no operation, in any state. -/
def Obligations.ReservedWordsAreRefusedInEveryState : Prop :=
  ∀ (s : State) (w : Word), w = 0b110#3 ∨ w = 0b111#3 → command w s = .refused (.reservedCommand w)

/-- 43_packet_handler.md R172: in DSTATE 5, 6 and 7, BIT is refused, ENABLE does nothing, DISABLE sets OFF, READ_STATE
returns the code and READ_ERROR returns LASTERR. -/
def Obligations.UnassignedStatesRefuseBitAndAnswerTheControlSurface : Prop :=
  ∀ s : State, 5 ≤ s.dstate.code.toNat →
    (∀ raw, command (bitWord raw) s = .refused (.bitInUnassignedState s.dstate)) ∧
    command 0b010#3 s = .next s ∧
    command 0b011#3 s = .next { s with dstate := .off } ∧
    command 0b100#3 s = .next { s with results := s.results ++ [.state s.dstate.code] } ∧
    command 0b101#3 s = .next { s with results := s.results ++ [.error s.lasterr.code] }

/-! ### The BIT prelude -/

/-- 40_nrzi.md R101, with its table: no transition decodes to a 1, a transition to a 0. -/
def Obligations.NoTransitionDecodesToOne : Prop :=
  nrziDecode false false = true ∧ nrziDecode false true = false ∧ nrziDecode true false = false ∧
    nrziDecode true true = true

/-- 40_nrzi.md R102: every BIT command leaves its raw bit in RAWPREV, in every DSTATE, and decodes it against the RAWPREV
before it; no other command writes RAWPREV. -/
def Obligations.EveryBitCommandAndNoOtherWritesRawprev : Prop :=
  ∀ (s t : State) (w : Word), command w s = .next t →
    (isBitWord w = true → t.rawprev = w.getLsbD 0 ∧ t.win.getLsbD 15 = (s.rawprev == w.getLsbD 0)) ∧
    (isBitWord w = false → t.rawprev = s.rawprev)

/-- 40_nrzi.md R103: in every BIT command, in every DSTATE, WIN[15] becomes the decoded bit and WIN[14:0] the old
WIN[15:1], except that the Reset step keeps only WIN[15]; no other command writes WIN. -/
def Obligations.EveryBitCommandShiftsTheWindow : Prop :=
  ∀ (s t : State) (w : Word), command w s = .next t →
    (isBitWord w = true →
      t.win.getLsbD 15 = (s.rawprev == w.getLsbD 0) ∧
      ∀ i, i < 15 → t.win.getLsbD i = (s.win.getLsbD (i + 1) && s.dstate != .reset)) ∧
    (isBitWord w = false → t.win = s.win)

/-- 40_nrzi.md R105: decoding undoes NRZI encoding from the same level; from the other level only the first bit differs,
and it is inverted; decoding does not depend on the polarity of the line. -/
def Obligations.NrziDecodingUndoesNrziEncoding : Prop :=
  (∀ (lev : Bool) (ls : List Bool), decodeLine lev (nrziEncode lev ls) = ls) ∧
  (∀ (lev l : Bool) (ls : List Bool), decodeLine (!lev) (nrziEncode lev (l :: ls)) = (!l) :: ls) ∧
  ∀ (lev : Bool) (rs : List Bool), decodeLine (!lev) (rs.map (!·)) = decodeLine lev rs

/-- 20_memory.md R53: after up to 16 decoded bits, the k-th of n bits stands at WIN[16 - n + k - 1]; and WIN[15:8] is the
flag exactly when the eight newest bits are `0111 1110`. -/
def Obligations.WindowHoldsTheNewestBitsInTimeOrder : Prop :=
  (∀ (w : BitVec 16) (ds : List Bool) (j : Nat), ds.length ≤ 16 → (h : j < ds.length) →
    (ds.foldl shiftWindow w).getLsbD (16 - ds.length + j) = ds[j]) ∧
  ∀ (w : BitVec 16) (ds : List Bool), ds.length = 8 →
    (EndFlagSeen (ds.foldl shiftWindow w) ↔ ds = [false, true, true, true, true, true, true, false])

/-! ### The Packet Handler -/

/-- 43_packet_handler.md R161: BIT.OFF has dispatch key 000 xx 00d, completes and changes RAWPREV and WIN only. Over any BIT commands, every register
survives OFF except RAWPREV and WIN, and nothing is emitted (60_exceptions.md R220). -/
def Obligations.OffOnlyTracksTheLine : Prop :=
  (∀ (t : SState) (raw : Bool), decode (dispatchKey .off t (bitWord raw)) = .ok (.bitOff raw)) ∧
  (∀ (s : State) (raw : Bool), ∃ v : BitVec 16, v.getLsbD 15 = (s.rawprev == raw) ∧
    (∀ i, i < 15 → v.getLsbD i = s.win.getLsbD (i + 1)) ∧
    exec (.bitOff raw) s = .next { s with rawprev := raw, win := v }) ∧
  ∀ (s : State) (rs : List Bool), s.dstate = .off →
    ∃ v, runCommands (rs.map bitWord) s = .next { s with rawprev := rs.getLastD s.rawprev, win := v }

/-- 43_packet_handler.md R162: the Reset step, its dispatch key 001 xx 00d, every register it writes and the event it
emits; nothing else changes. -/
def Obligations.ResetStepOpensAnAttempt : Prop :=
  (∀ (t : SState) (raw : Bool), decode (dispatchKey .reset t (bitWord raw)) = .ok (.bitReset raw)) ∧
  ∀ (s : State) (raw : Bool),
    exec (.bitReset raw) s = .next { s with
      rawprev := raw
      win := if s.rawprev = raw then 0x8000#16 else 0x0000#16
      bitcnt := 0#16
      sstate := .sreset
      scount := 0#8
      run := 0#3
      byte := 0x00#8
      bytecnt := 0#3
      crc := 0xFFFF#16
      events := s.events ++ [.beginPacket s.chan]
      dstate := .waiting }

/-- 43_packet_handler.md R163: BIT.PREFETCH, its dispatch key 011 xx 00d, counts each bit (BITCNT by `inc`, 10_state.md
R28), and on the eighth starts the Frame Assembler; nothing else changes. -/
def Obligations.PrefetchCountsEightBitsThenStartsReceiving : Prop :=
  (∀ (t : SState) (raw : Bool), decode (dispatchKey .prefetch t (bitWord raw)) = .ok (.bitPrefetch raw)) ∧
  ∀ (s : State) (raw : Bool),
    (s.bitcnt.toNat = 7 → exec (.bitPrefetch raw) s = .next { nrziPrelude raw s with
      run := 0#3, byte := 0x00#8, bytecnt := 0#3, crc := 0xFFFF#16, bitcnt := 0#16, dstate := .receiving }) ∧
    (s.bitcnt.toNat ≠ 7 → exec (.bitPrefetch raw) s = .next { nrziPrelude raw s with
      bitcnt := inc s.params.counterOverflow s.bitcnt }) ∧
    (s.bitcnt.toNat < 65535 → (inc s.params.counterOverflow s.bitcnt).toNat = s.bitcnt.toNat + 1)

/-- 43_packet_handler.md R164 and R165: ExitToReset for each of the five outcomes. -/
def Obligations.ExitToResetDoesWhatEachOutcomeSays : Prop :=
  ∀ s : State,
    exitToReset .commit s = { s with
      events := s.events ++ [.commit, .hop (!s.chan)], chan := !s.chan, dstate := .reset } ∧
    exitToReset .crcMismatch s = { s with
      events := s.events ++ [.discard, .hop (!s.chan)], lasterr := .errCrc, chan := !s.chan, dstate := .reset } ∧
    exitToReset .stuffBitViolation s = { s with
      events := s.events ++ [.discard, .hop (!s.chan)], lasterr := .errStuff, chan := !s.chan, dstate := .reset } ∧
    exitToReset .noEndFlag s = { s with
      events := s.events ++ [.discard, .hop (!s.chan)], lasterr := .errNoend, chan := !s.chan, dstate := .reset } ∧
    exitToReset .syncTimeout s = { s with
      events := s.events ++ [.discard, .hop (!s.chan)], chan := !s.chan, dstate := .reset }

/-! ### The control surface -/

/-- 43_packet_handler.md R167: ENABLE, dispatch key xxx xx 010, leaves OFF for RESET and otherwise does nothing. -/
def Obligations.EnableLeavesOffAndOtherwiseDoesNothing : Prop :=
  (∀ (d : DState) (t : SState), decode (dispatchKey d t 0b010#3) = .ok .enable) ∧
  ∀ s : State,
    (s.dstate = .off → exec .enable s = .next { s with dstate := .reset }) ∧
    (s.dstate ≠ .off → exec .enable s = .next s)

/-- 43_packet_handler.md R168: DISABLE, dispatch key xxx xx 011, writes OFF and nothing else, in any state. -/
def Obligations.DisableWritesOffAndNothingElse : Prop :=
  (∀ (d : DState) (t : SState), decode (dispatchKey d t 0b011#3) = .ok .disable) ∧
  ∀ s : State, exec .disable s = .next { s with dstate := .off }

/-- 43_packet_handler.md R169 and R170: the reads, dispatch keys xxx xx 100 and xxx xx 101, return the codes of
10_state.md R25 and R33 and change nothing. -/
def Obligations.ReadsReturnTheCodesAndChangeNothing : Prop :=
  (∀ (d : DState) (t : SState), decode (dispatchKey d t 0b100#3) = .ok .readState ∧
    decode (dispatchKey d t 0b101#3) = .ok .readError) ∧
  ∀ s : State,
    (∃ c : BitVec 3, exec .readState s = .next { s with results := s.results ++ [.state c] } ∧
      (s.dstate = .off → c = 0#3) ∧ (s.dstate = .reset → c = 1#3) ∧ (s.dstate = .waiting → c = 2#3) ∧
      (s.dstate = .prefetch → c = 3#3) ∧ (s.dstate = .receiving → c = 4#3)) ∧
    ∃ c : BitVec 2, exec .readError s = .next { s with results := s.results ++ [.error c] } ∧
      (s.lasterr = .errNone → c = 0#2) ∧ (s.lasterr = .errStuff → c = 1#2) ∧
      (s.lasterr = .errNoend → c = 2#2) ∧ (s.lasterr = .errCrc → c = 3#2)

/-- DISABLE in the middle of an attempt, then ENABLE and a bit: nothing more of the open packet is committed, CHAN has not
flipped, and the sink holds a new packet in its place (43_packet_handler.md R167, R168; 20_memory.md R57). -/
def Obligations.DisableThenEnableDropsTheOpenPacket : Prop :=
  ∀ (s : State) (k : Sink) (raw : Bool), s.sink = some k →
    ∃ t, runCommands [Control.disable.word, Control.enable.word, bitWord raw] s = .next t ∧
      t.dstate = .waiting ∧ t.chan = s.chan ∧ t.lasterr = s.lasterr ∧
      t.sink = some { committed := k.committed, current := some ⟨s.chan, []⟩ }

/-! ### The counters -/

/-- 10_state.md R37: `inc` of an N-bit counter. -/
def Obligations.IncSaturatesOrWrapsAtTheMaximum : Prop :=
  ∀ (n : Nat) (c : BitVec n) (mode : CounterOverflow),
    (c.toNat < 2 ^ n - 1 → (inc mode c).toNat = c.toNat + 1) ∧
    (c.toNat = 2 ^ n - 1 → mode = .saturate → inc mode c = c) ∧
    (c.toNat = 2 ^ n - 1 → mode = .wrap → (inc mode c).toNat = 0)

/-! ### The Synchronizer -/

/-- 41_synchronizer.md R111: BIT.SYNC_RESET, its dispatch key 010 00 00d, the timeout and the start of a run. -/
def Obligations.SyncResetTimesOutOrStartsARun : Prop :=
  (∀ raw : Bool, decode (dispatchKey .waiting .sreset (bitWord raw)) = .ok (.bitSyncReset raw)) ∧
  ∀ (s : State) (raw : Bool),
    ((inc s.params.counterOverflow s.bitcnt).toNat > s.params.syncTimeout →
      exec (.bitSyncReset raw) s = .next { nrziPrelude raw s with
        bitcnt := inc s.params.counterOverflow s.bitcnt
        events := s.events ++ [.discard, .hop (!s.chan)]
        chan := !s.chan
        dstate := .reset }) ∧
    ((inc s.params.counterOverflow s.bitcnt).toNat ≤ s.params.syncTimeout →
      exec (.bitSyncReset raw) s = .next { nrziPrelude raw s with
        bitcnt := inc s.params.counterOverflow s.bitcnt
        scount := 0#8
        sstate := if s.rawprev = raw then .sawOne else .sawZero })

/-- 41_synchronizer.md R112 and R113: the run of alternating bits, dispatch keys 010 01 00d and 010 10 00d. -/
def Obligations.SyncRunsExtendEnterTheFlagOrRestart : Prop :=
  (∀ raw : Bool, decode (dispatchKey .waiting .sawZero (bitWord raw)) = .ok (.bitSyncSawZero raw) ∧
    decode (dispatchKey .waiting .sawOne (bitWord raw)) = .ok (.bitSyncSawOne raw)) ∧
  ∀ (s : State) (raw : Bool),
    (s.rawprev = raw →
      exec (.bitSyncSawZero raw) s = .next { nrziPrelude raw s with
        bitcnt := inc s.params.counterOverflow s.bitcnt
        scount := inc s.params.counterOverflow s.scount
        sstate := .sawOne }) ∧
    (s.rawprev ≠ raw → s.scount.toNat > s.params.preambleMin →
      exec (.bitSyncSawZero raw) s = .next { nrziPrelude raw s with
        bitcnt := inc s.params.counterOverflow s.bitcnt, scount := 7#8, sstate := .inFlag }) ∧
    (s.rawprev ≠ raw → s.scount.toNat ≤ s.params.preambleMin →
      exec (.bitSyncSawZero raw) s = .next { nrziPrelude raw s with
        bitcnt := inc s.params.counterOverflow s.bitcnt, sstate := .sreset }) ∧
    (s.rawprev ≠ raw →
      exec (.bitSyncSawOne raw) s = .next { nrziPrelude raw s with
        bitcnt := inc s.params.counterOverflow s.bitcnt
        scount := inc s.params.counterOverflow s.scount
        sstate := .sawZero }) ∧
    (s.rawprev = raw → s.scount.toNat > s.params.preambleMin →
      exec (.bitSyncSawOne raw) s = .next { nrziPrelude raw s with
        bitcnt := inc s.params.counterOverflow s.bitcnt, scount := 5#8, sstate := .inFlag }) ∧
    (s.rawprev = raw → s.scount.toNat ≤ s.params.preambleMin →
      exec (.bitSyncSawOne raw) s = .next { nrziPrelude raw s with
        bitcnt := inc s.params.counterOverflow s.bitcnt, sstate := .sreset })

/-- 41_synchronizer.md R114 and R115: the flag's remaining bits. SCOUNT - 1 at 0, which 10_state.md R36 rules out, is a
free value, and the rest of the rule holds of it. -/
def Obligations.SyncInFlagCountsDownAndFindsSync : Prop :=
  ∀ (s : State) (raw : Bool), ∃ (v : BitVec 8) (n : Nat),
    (1 ≤ s.scount.toNat → v.toNat = s.scount.toNat - 1 ∧ n = s.draws) ∧
    (v ≠ 0#8 → s.rawprev = raw → exec (.bitSyncInFlag raw) s = .next { nrziPrelude raw s with
      bitcnt := inc s.params.counterOverflow s.bitcnt, scount := v, draws := n }) ∧
    (v ≠ 0#8 → s.rawprev ≠ raw → exec (.bitSyncInFlag raw) s = .next { nrziPrelude raw s with
      bitcnt := inc s.params.counterOverflow s.bitcnt, scount := v, draws := n, sstate := .sreset }) ∧
    (v = 0#8 → s.rawprev = raw → exec (.bitSyncInFlag raw) s = .next { nrziPrelude raw s with
      bitcnt := inc s.params.counterOverflow s.bitcnt, scount := v, draws := n, sstate := .sreset }) ∧
    (v = 0#8 → s.rawprev ≠ raw → exec (.bitSyncInFlag raw) s = .next { nrziPrelude raw s with
      bitcnt := 0#16, scount := v, draws := n, dstate := .prefetch })

/-- 41_synchronizer.md R116: from SCOUNT = n, INFLAG accepts exactly n - 1 ones followed by one 0; a 0 among the ones, or
a 1 in the last place, restarts the Synchronizer at that bit. -/
def Obligations.InFlagAcceptsExactlyTheRestOfTheFlag : Prop :=
  ∀ (s : State) (n : Nat), s.dstate = .waiting → s.sstate = .inFlag → s.scount.toNat = n → 1 ≤ n → n ≤ 7 →
    (∃ t, feed (List.replicate (n - 1) true ++ [false]) s = .next t ∧ t.dstate = .prefetch ∧ t.bitcnt = 0#16 ∧
      t.events = s.events) ∧
    (∀ j, j < n - 1 → ∃ t, feed (List.replicate j true ++ [false]) s = .next t ∧
      t.dstate = .waiting ∧ t.sstate = .sreset ∧ t.events = s.events) ∧
    ∃ t, feed (List.replicate n true) s = .next t ∧ t.dstate = .waiting ∧ t.sstate = .sreset ∧ t.events = s.events

/-- 41_synchronizer.md R117: the preambles that are accepted, exactly. The preamble's first bit is handled in SRESET with
no timeout; `PREAMBLE_MIN` can be exceeded by SCOUNT (log entry 17), which saturates, as at the defaults, or wraps after a
longer preamble than this one. -/
def Obligations.PreambleIsAcceptedExactlyWhenLongEnough : Prop :=
  ∀ (s : State) (n : Nat) (f : Bool), 1 ≤ n → s.dstate = .waiting → s.sstate = .sreset →
    (inc s.params.counterOverflow s.bitcnt).toNat ≤ s.params.syncTimeout →
    s.params.wf = true → s.params.counterOverflow = .saturate ∨ n ≤ 254 →
    ∃ t, feed (alternating n f ++ flagBits) s = .next t ∧
      (t.dstate = .prefetch ↔
        ((alternating n f).getLast? = some true ∧ s.params.preambleMin ≤ n) ∨
        ((alternating n f).getLast? = some false ∧ s.params.preambleMin + 2 ≤ n))

/-- 41_synchronizer.md R118: with constant decoded input from the bit after the Reset step, at the default SYNC_TIMEOUT,
the timeout comes at the 17th bit and not before, and LASTERR is not written (60_exceptions.md R204). -/
def Obligations.ConstantInputTimesOutAtTheSeventeenthBit : Prop :=
  ∀ (s : State) (d : Bool), s.dstate = .waiting → s.sstate = .sreset → s.bitcnt = 0#16 → s.params.syncTimeout = 16 →
    (∀ k, k ≤ 16 → ∃ t, feed (List.replicate k d) s = .next t ∧ t.dstate = .waiting ∧ t.events = s.events) ∧
    ∃ t, feed (List.replicate 17 d) s = .next t ∧ t.dstate = .reset ∧ t.lasterr = s.lasterr ∧ t.chan = !s.chan ∧
      t.events = s.events ++ [.discard, .hop (!s.chan)]

/-- 41_synchronizer.md R119: alternating input, for as long as it lasts, never times out, never hops and never reaches
INFLAG. -/
def Obligations.AlternatingInputNeverLeavesTheRun : Prop :=
  ∀ (s : State) (n : Nat) (f : Bool), s.dstate = .waiting →
    (s.sstate = .sawZero ∧ f = true ∨ s.sstate = .sawOne ∧ f = false) →
    ∃ t, feed (alternating n f) s = .next t ∧ t.dstate = .waiting ∧ (t.sstate = .sawZero ∨ t.sstate = .sawOne) ∧
      t.events = s.events ∧ t.chan = s.chan

/-! ### The Frame Assembler -/

/-- 42_frame_assembler.md R132 and 60_exceptions.md R201: with RUN = 5, an input bit 1 aborts with StuffBitViolation; an
input bit 0 is dropped, and step 6 follows (R140). -/
def Obligations.StuffBitIsDroppedOrAborts : Prop :=
  ∀ (s : State) (raw : Bool), s.run = 5#3 →
    (s.win.getLsbD 8 = true →
      exec (.bitReceive raw) s = .next { nrziPrelude raw s with
        events := s.events ++ [.discard, .hop (!s.chan)]
        lasterr := .errStuff
        chan := !s.chan
        dstate := .reset }) ∧
    (s.win.getLsbD 8 = false → newestByte (nrziPrelude raw s).win ≠ 0x7E#8 →
      exec (.bitReceive raw) s = .next { nrziPrelude raw s with run := 0#3 }) ∧
    (s.win.getLsbD 8 = false → newestByte (nrziPrelude raw s).win = 0x7E#8 → s.crc = 0xF0B8#16 →
      exec (.bitReceive raw) s = .next { nrziPrelude raw s with
        run := 0#3
        events := s.events ++ [.commit, .hop (!s.chan)]
        chan := !s.chan
        dstate := .reset }) ∧
    (s.win.getLsbD 8 = false → newestByte (nrziPrelude raw s).win = 0x7E#8 → s.crc ≠ 0xF0B8#16 →
      exec (.bitReceive raw) s = .next { nrziPrelude raw s with
        run := 0#3
        events := s.events ++ [.discard, .hop (!s.chan)]
        lasterr := .errCrc
        chan := !s.chan
        dstate := .reset })

/-- 42_frame_assembler.md R133 to R137, and R138 where no flag is seen: a destuffed bit enters BYTE, RUN and CRC, the
eighth is flushed, and BITCNT counts it. RUN + 1 at 7, which 10_state.md R36 rules out, is a free value, and the rest of
the rules holds of it. -/
def Obligations.DataBitIsAssembledCountedAndFlushed : Prop :=
  ∀ (s : State) (raw : Bool), s.run ≠ 5#3 →
    (inc s.params.counterOverflow s.bitcnt).toNat ≤ s.params.maxFrameBits →
    newestByte (nrziPrelude raw s).win ≠ 0x7E#8 →
    ∃ (b : Byte) (r : BitVec 3) (n : Nat),
      (b.getLsbD 7 = s.win.getLsbD 8 ∧ ∀ i, i < 7 → b.getLsbD i = s.byte.getLsbD (i + 1)) ∧
      (s.win.getLsbD 8 = false → r = 0#3) ∧
      (s.win.getLsbD 8 = true → s.run.toNat < 7 → r.toNat = s.run.toNat + 1) ∧
      (s.run.toNat < 7 → n = s.draws) ∧
      exec (.bitReceive raw) s = .next { nrziPrelude raw s with
        run := r
        crc := crcStep s.crc (s.win.getLsbD 8)
        bitcnt := inc s.params.counterOverflow s.bitcnt
        draws := n
        byte := if s.bytecnt = 7#3 then 0x00#8 else b
        bytecnt := if s.bytecnt = 7#3 then 0#3 else s.bytecnt + 1#3
        events := s.events ++ (if s.bytecnt = 7#3 then [.append b] else []) }

/-- 42_frame_assembler.md R137 and 60_exceptions.md R202, R208: the bit past MAX_FRAME_BITS aborts with NoEndFlag, after
its steps 2 to 4 (the byte it completes is appended) and whether or not the window holds the flag. RUN + 1 at 7 as in
DataBitIsAssembledCountedAndFlushed. -/
def Obligations.BitPastTheCeilingAbortsBeforeTheFlagTest : Prop :=
  ∀ (s : State) (raw : Bool), s.run ≠ 5#3 →
    (inc s.params.counterOverflow s.bitcnt).toNat > s.params.maxFrameBits →
    ∃ (b : Byte) (r : BitVec 3) (n : Nat),
      (b.getLsbD 7 = s.win.getLsbD 8 ∧ ∀ i, i < 7 → b.getLsbD i = s.byte.getLsbD (i + 1)) ∧
      (s.win.getLsbD 8 = false → r = 0#3) ∧
      (s.win.getLsbD 8 = true → s.run.toNat < 7 → r.toNat = s.run.toNat + 1) ∧
      (s.run.toNat < 7 → n = s.draws) ∧
      exec (.bitReceive raw) s = .next { nrziPrelude raw s with
        run := r
        crc := crcStep s.crc (s.win.getLsbD 8)
        bitcnt := inc s.params.counterOverflow s.bitcnt
        draws := n
        byte := if s.bytecnt = 7#3 then 0x00#8 else b
        bytecnt := if s.bytecnt = 7#3 then 0#3 else s.bytecnt + 1#3
        events := s.events ++ (if s.bytecnt = 7#3 then [.append b] else []) ++ [.discard, .hop (!s.chan)]
        lasterr := .errNoend
        chan := !s.chan
        dstate := .reset }

/-- 42_frame_assembler.md R138, R139 and 44_crc.md R193: at the end flag, after a destuffed bit within the ceiling, the
packet is committed exactly when the CRC register holds 0xF0B8, the bit of this command included. RUN + 1 at 7 as in
DataBitIsAssembledCountedAndFlushed. -/
def Obligations.EndFlagCommitsExactlyOnTheResidue : Prop :=
  ∀ (s : State) (raw : Bool), s.run ≠ 5#3 →
    (inc s.params.counterOverflow s.bitcnt).toNat ≤ s.params.maxFrameBits →
    newestByte (nrziPrelude raw s).win = 0x7E#8 →
    ∃ (b : Byte) (r : BitVec 3) (n : Nat),
      (b.getLsbD 7 = s.win.getLsbD 8 ∧ ∀ i, i < 7 → b.getLsbD i = s.byte.getLsbD (i + 1)) ∧
      (s.win.getLsbD 8 = false → r = 0#3) ∧
      (s.win.getLsbD 8 = true → s.run.toNat < 7 → r.toNat = s.run.toNat + 1) ∧
      (s.run.toNat < 7 → n = s.draws) ∧
      (crcStep s.crc (s.win.getLsbD 8) = 0xF0B8#16 → exec (.bitReceive raw) s = .next { nrziPrelude raw s with
        run := r
        crc := crcStep s.crc (s.win.getLsbD 8)
        bitcnt := inc s.params.counterOverflow s.bitcnt
        draws := n
        byte := if s.bytecnt = 7#3 then 0x00#8 else b
        bytecnt := if s.bytecnt = 7#3 then 0#3 else s.bytecnt + 1#3
        events := s.events ++ (if s.bytecnt = 7#3 then [.append b] else []) ++ [.commit, .hop (!s.chan)]
        chan := !s.chan
        dstate := .reset }) ∧
      (crcStep s.crc (s.win.getLsbD 8) ≠ 0xF0B8#16 → exec (.bitReceive raw) s = .next { nrziPrelude raw s with
        run := r
        crc := crcStep s.crc (s.win.getLsbD 8)
        bitcnt := inc s.params.counterOverflow s.bitcnt
        draws := n
        byte := if s.bytecnt = 7#3 then 0x00#8 else b
        bytecnt := if s.bytecnt = 7#3 then 0#3 else s.bytecnt + 1#3
        events := s.events ++ (if s.bytecnt = 7#3 then [.append b] else []) ++ [.discard, .hop (!s.chan)]
        lasterr := .errCrc
        chan := !s.chan
        dstate := .reset })

/-- 42_frame_assembler.md R133 and 20_memory.md R54: eight destuffed bits, the first at bit 0, whatever BYTE held. -/
def Obligations.EightBitsFormAByteFirstBitLowest : Prop :=
  ∀ (b : Byte) (bits : List Bool), bits.length = 8 →
    bits.foldl shiftByte b = byteOfBits bits ∧ byteBits (bits.foldl shiftByte b) = bits

/-- 70_reset_and_hazards.md R240: PREFETCH lasts exactly eight BIT commands and emits nothing. -/
def Obligations.PrefetchLastsExactlyEightBits : Prop :=
  ∀ (s : State) (ds : List Bool), s.dstate = .prefetch → s.bitcnt = 0#16 → ds.length ≤ 8 →
    ∃ t, feed ds s = .next t ∧ t.events = s.events ∧ t.chan = s.chan ∧
      (ds.length < 8 → t.dstate = .prefetch) ∧
      (ds.length = 8 → t.dstate = .receiving ∧ t.bitcnt = 0#16 ∧ t.crc = 0xFFFF#16 ∧ t.run = 0#3 ∧ t.byte = 0#8 ∧
        t.bytecnt = 0#3 ∧ ∀ (j : Nat) (h : j < ds.length), t.win.getLsbD (8 + j) = ds[j])

/-- 70_reset_and_hazards.md R240: from its start, RECEIVING ends within MAX_FRAME_BITS + 1 + floor((MAX_FRAME_BITS + 1) / 5)
BIT commands, whatever bits come (MAX_FRAME_BITS within the range of BITCNT, as the default is). -/
def Obligations.ReceivingEndsWithinItsBound : Prop :=
  ∀ (s : State) (rs : List Bool), s.dstate = .receiving → s.bitcnt = 0#16 → s.run = 0#3 → s.params.wf = true →
    rs.length = s.params.maxFrameBits + 1 + (s.params.maxFrameBits + 1) / 5 →
    ∃ k t, k ≤ rs.length ∧ runCommands ((rs.take k).map bitWord) s = .next t ∧ t.dstate = .reset

/-! ### The CRC -/

/-- 44_crc.md R191: the bit is XORed into the low bit; then a right shift, with 0x8408 XORed in when that low bit is 1.
With the rule's one-bit examples. -/
def Obligations.CrcStepFollowsTheRecurrence : Prop :=
  (∀ (c : BitVec 16) (b : Bool), crcStep c b = (c >>> 1) ^^^ (if c.getLsbD 0 = b then 0x0000#16 else 0x8408#16)) ∧
  crcStep 0xFFFF#16 false = 0xFBF7#16 ∧ crcStep 0xFFFF#16 true = 0x7FFF#16 ∧ crcStep 0x0000#16 false = 0x0000#16 ∧
  crcStep 0x0000#16 true = 0x8408#16 ∧ crcStep 0x0001#16 false = 0x8408#16 ∧ crcStep 0x0001#16 true = 0x0000#16

/-- 44_crc.md R195: the table-driven byte-wise CRC equals eight bit-wise steps, bit 0 first. -/
def Obligations.ByteWiseCrcEqualsEightBitSteps : Prop :=
  ∀ (c : BitVec 16) (v : Byte), crcByte c v = crcBits c (byteBits v)

/-- 44_crc.md R196: with the sender's convention the register after the frame check sequence is the residue, for every
payload. -/
def Obligations.EveryPayloadWithItsFcsLeavesTheResidue : Prop :=
  ∀ bs : List Byte, crcBits Config.crcSeed (bytesBits (bs ++ fcsBytes bs)) = Config.crcResidue

/-- 44_crc.md R198: a single flipped bit anywhere leaves another register value than the unflipped bits do; so one
flipped bit in a valid frame's bits never leaves the residue. -/
def Obligations.SingleBitErrorAlwaysChangesTheCrc : Prop :=
  ∀ (c : BitVec 16) (pre post : List Bool) (b : Bool),
    crcBits c (pre ++ (!b) :: post) ≠ crcBits c (pre ++ b :: post)

/-! ### The machine as a whole -/

/-- 20_memory.md R56 and R58: the event list of one command is one of the seven, and a command of the control surface
emits none. -/
def Obligations.OneCommandEmitsOneOfTheSevenEventLists : Prop :=
  ∀ (s t : State) (w : Word), command w s = .next t →
    ∃ es, t.events = s.events ++ es ∧ AllowedEventList s.chan es ∧ (isBitWord w = false → es = [])

/-- 43_packet_handler.md R166 and 10_state.md R32: CHAN flips exactly in the commands that emit HOP, and HOP carries the
new CHAN. -/
def Obligations.ChannelFlipsExactlyWithHop : Prop :=
  ∀ (s t : State) (w : Word), command w s = .next t →
    ∃ es, t.events = s.events ++ es ∧
      ((t.chan = !s.chan ∧ es.getLast? = some (.hop t.chan) ∧ t.dstate = .reset) ∨
        (t.chan = s.chan ∧ ∀ c, Event.hop c ∉ es))

/-- 60_exceptions.md R205, with R200, R204: LASTERR is written only by a command that discards a packet in RECEIVING, and
then names StuffBitViolation, NoEndFlag or CrcMismatch; every other command leaves it. -/
def Obligations.LastErrorIsWrittenOnlyByAFrameError : Prop :=
  ∀ (s t : State) (w : Word), command w s = .next t →
    (s.dstate = .receiving ∧ isBitWord w = true ∧ (∃ es, t.events = s.events ++ es ∧ Event.discard ∈ es) ∧
        (t.lasterr = .errStuff ∨ t.lasterr = .errNoend ∨ t.lasterr = .errCrc)) ∨
      (t.lasterr = s.lasterr ∧ (s.dstate = .receiving → ∃ es, t.events = s.events ++ es ∧ Event.discard ∉ es))

/-- 43_packet_handler.md R173: every transition of DSTATE, with its condition, and no other. -/
def Obligations.DstateMovesOnlyAsTheTransitionTableSays : Prop :=
  ∀ (s t : State) (w : Word), RegistersOk s → command w s = .next t →
    (w = 0b010#3 → t.dstate = if s.dstate = .off then .reset else s.dstate) ∧
    (w = 0b011#3 → t.dstate = .off) ∧
    (w = 0b100#3 ∨ w = 0b101#3 → t.dstate = s.dstate) ∧
    (isBitWord w = true →
      (s.dstate = .off → t.dstate = .off) ∧
      (s.dstate = .reset → t.dstate = .waiting) ∧
      (s.dstate = .waiting →
        (t.dstate = .prefetch ↔ s.sstate = .inFlag ∧ s.scount = 1#8 ∧ s.rawprev ≠ w.getLsbD 0) ∧
        (t.dstate = .reset ↔
          s.sstate = .sreset ∧ (inc s.params.counterOverflow s.bitcnt).toNat > s.params.syncTimeout) ∧
        (t.dstate = .waiting ∨ t.dstate = .prefetch ∨ t.dstate = .reset)) ∧
      (s.dstate = .prefetch → t.dstate = if s.bitcnt = 7#16 then .receiving else .prefetch) ∧
      (s.dstate = .receiving →
        (t.dstate = .reset ↔ ∃ es, t.events = s.events ++ es ∧ (Event.commit ∈ es ∨ Event.discard ∈ es)) ∧
        (t.dstate = .reset ∨ t.dstate = .receiving)))

/-- The parameters are fixed when the block is built (00_scope.md R9, 20_memory.md R64): no step writes them. Each
history only grows (70_reset_and_hazards.md R241). -/
def Obligations.StepsKeepTheParametersAndTheHistory : Prop :=
  ∀ s t : State, step s = .next t →
    t.params = s.params ∧ (∃ es, t.events = s.events ++ es) ∧ ∃ rs, t.results = s.results ++ rs

/-- 20_memory.md R61: inside a concurrent window every command of both agents is taken once, each agent's own order is
kept, and nothing else is taken. -/
def Obligations.ConcurrentWindowKeepsEachAgentsOrder : Prop :=
  ∀ (bits : List Bool) (controls : List Control) (k : Nat),
    let ws := drain (bits.length + controls.length) [.concurrent bits controls] k
    ws.length = bits.length + controls.length ∧
    ws.filter isBitWord = bits.map bitWord ∧ ws.filter (fun w => !isBitWord w) = controls.map Control.word

/-- 70_reset_and_hazards.md R236: ENABLE and BIT issued together in OFF. ENABLE first: the Reset step and BEGIN in that BIT
command. BIT first: no event, and the Reset step one BIT command later. -/
def Obligations.EnableRacingABitInOff : Prop :=
  ∀ (s : State) (raw : Bool), s.dstate = .off →
    (∃ t, runCommands [Control.enable.word, bitWord raw] s = .next t ∧ t.dstate = .waiting ∧
      t.events = s.events ++ [.beginPacket s.chan]) ∧
    ∃ t, runCommands [bitWord raw, Control.enable.word] s = .next t ∧ t.dstate = .reset ∧ t.events = s.events

/-- The power-on state meets the invariant of registers and outputs, whatever the parameters and the commands issued
(10_state.md R36, R38; 20_memory.md R57). Two parts rest on the model's choice: that the histories start empty (log entry 6),
and that the channel the receiver starts on is INITIAL_CHAN (log entry 19, from the boot duty of 70_reset_and_hazards.md
R232), which makes the channel last commanded CHAN (43_packet_handler.md R166). -/
def Obligations.InvariantHoldsAtPowerOn : Prop :=
  Inv State.reset ∧ ∀ (p : Params) (is : List Issue), Inv (State.powerOn p is [] [] 0)

/-- 10_state.md R36: every step keeps the reachable-state invariant of the registers. -/
def Obligations.EveryStepKeepsTheRegisterInvariant : Prop :=
  ∀ s t : State, RegistersOk s → step s = .next t → RegistersOk t

/-- Every step keeps the invariant of registers and outputs: no event without its open packet (20_memory.md R57), CRC and
BITCNT count the open packet's bytes and the bits not yet flushed, the channel last commanded is CHAN, and every committed
packet is valid. What is said of BITCNT and of the length ceiling is said where `Params.wf` holds (log entry 17). The channel
the receiver starts on is log entry 19. -/
def Obligations.EveryStepKeepsRegistersAndOutputsConsistent : Prop :=
  ∀ s t : State, Inv s → step s = .next t → Inv t

/-- In every run from power-on, with any parameters and any commands, every packet the sink holds as committed passes the
CRC check (43_packet_handler.md R164, 44_crc.md R193, 42_frame_assembler.md R143), and, where `Params.wf` holds of the
parameters (log entry 17), is within the length ceiling (R146). That the histories start empty is log entry 6. -/
def Obligations.OnlyValidPacketsAreEverCommitted : Prop :=
  ∀ (p : Params) (is : List Issue) (n : Nat) (t : State),
    Host.Core.run core n (State.powerOn p is [] [] 0) = .next t →
    ∃ k, t.sink = some k ∧ ∀ q ∈ k.committed, ValidPacket p q

/-- 60_exceptions.md R211 and R212: from a state that meets the register invariant, with no reserved word issued, a step
always answers a next state, and the next state is again such a state. -/
def Obligations.NoReachableStateIsStuck : Prop :=
  ∀ s : State, RegistersOk s → streamWf s.stream = true →
    ∃ t, step s = .next t ∧ RegistersOk t ∧ streamWf t.stream = true

/-- 70_reset_and_hazards.md R231: of the power-on values only DSTATE, LASTERR and CHAN are observable. Two states in OFF
that agree on those three, on the parameters and on the histories give the same outputs for every command sequence,
whatever every other register holds. -/
def Obligations.OtherPowerOnValuesAreUnobservable : Prop :=
  ∀ (s t : State) (ws : List Word), s.dstate = .off → t.dstate = .off → s.chan = t.chan → s.lasterr = t.lasterr →
    s.params = t.params → s.events = t.events → s.results = t.results →
    SameOutputs (runCommands ws s) (runCommands ws t)

/-- A frame that is sent is received (the source's property quoted in 95_test_vectors.md S7, with 90_conflicts.md C1 and
C6): from RESET, a bit for the Reset step, an accepted preamble, and FRAME of a payload that with its FCS is within
MAX_FRAME_BITS, with the limits within their counters (log entry 17), and SCOUNT saturating or the preamble at most 254 bits,
give exactly one packet of the payload and its FCS on the present channel, the commit, and the hop. The
sender's stuffing and FCS are those of 30_encoding.md R81 and 44_crc.md R196. -/
def Obligations.AFrameThatIsSentIsReceivedAndCommitted : Prop :=
  ∀ (s : State) (d f : Bool) (n : Nat) (bs : List Byte), s.dstate = .reset →
    s.params.wf = true → s.params.counterOverflow = .saturate ∨ n ≤ 254 → 1 ≤ s.params.syncTimeout → 1 ≤ n →
    (((alternating n f).getLast? = some true ∧ s.params.preambleMin ≤ n) ∨
      ((alternating n f).getLast? = some false ∧ s.params.preambleMin + 2 ≤ n)) →
    8 * (bs.length + 2) ≤ s.params.maxFrameBits →
    ∃ t, feed (d :: (alternating n f ++ frameBits bs)) s = .next t ∧ t.dstate = .reset ∧ t.chan = !s.chan ∧
      t.lasterr = s.lasterr ∧
      t.events = s.events ++ (.beginPacket s.chan :: ((bs ++ fcsBytes bs).map Event.append ++
        [.commit, .hop (!s.chan)]))
end

