-- ==== Sys2Proof/Laws/Decode.lean ====
section
/-! SUPPORT. The decoder through the fields of its key: a key is its three fields, and decoding it is the decode procedure on them. -/

namespace Sys2Proof

theorem DState.ofCode_code (d : DState) : DState.ofCode d.code = d := by cases d <;> rfl

theorem SState.ofCode_code (t : SState) : SState.ofCode t.code = t := by cases t <;> rfl

theorem DState.code_ofCode (c : BitVec 3) : (DState.ofCode c).code = c := by
  have h : ∀ n : Fin 8, (DState.ofCode (BitVec.ofFin n)).code = BitVec.ofFin n := by decide
  exact h c.toFin

theorem SState.code_ofCode (c : BitVec 2) : (SState.ofCode c).code = c := by
  have h : ∀ n : Fin 4, (SState.ofCode (BitVec.ofFin n)).code = BitVec.ofFin n := by decide
  exact h c.toFin

/-- To show a fact of every command word, show it of the eight. -/
theorem forall_word {P : Word → Prop} (h : ∀ n : Fin 8, P (BitVec.ofFin n)) (w : Word) : P w := h w.toFin

theorem dispatchKey_command (d : DState) (t : SState) (w : Word) : (dispatchKey d t w).extractLsb' 0 3 = w := by
  revert w; apply forall_word; cases d <;> cases t <;> decide

theorem dispatchKey_sstate (d : DState) (t : SState) (w : Word) : (dispatchKey d t w).extractLsb' 3 2 = t.code := by
  revert w; apply forall_word; cases d <;> cases t <;> decide

theorem dispatchKey_dstate (d : DState) (t : SState) (w : Word) : (dispatchKey d t w).extractLsb' 5 3 = d.code := by
  revert w; apply forall_word; cases d <;> cases t <;> decide

/-- Decoding the key of a command word in a state is the decode procedure of 30_encoding.md R76. -/
theorem decode_dispatchKey (d : DState) (t : SState) (w : Word) : decode (dispatchKey d t w) = decodeCommand w d t := by
  rw [decode, dispatchKey_command, dispatchKey_sstate, dispatchKey_dstate, DState.ofCode_code, SState.ofCode_code]

/-- Every key is the dispatch key of its fields (30_encoding.md R74). -/
theorem eq_dispatchKey (k : Key) :
    k = dispatchKey (DState.ofCode (k.extractLsb' 5 3)) (SState.ofCode (k.extractLsb' 3 2)) (k.extractLsb' 0 3) := by
  have h : ((k.extractLsb' 5 3 ++ k.extractLsb' 3 2 : BitVec 5) ++ k.extractLsb' 0 3 : BitVec 8) = k := by
    apply BitVec.eq_of_getLsbD_eq
    intro i hi
    simp only [BitVec.getLsbD_append, BitVec.getLsbD_extractLsb']
    by_cases h1 : i < 3
    · simp [h1]
    · by_cases h2 : i - 3 < 2
      · have h3 : 3 + (i - 3) = i := by omega
        simp [h1, h2, h3]
      · have h3 : 5 + (i - 3 - 2) = i := by omega
        have h4 : i - 3 - 2 < 3 := by omega
        simp [h1, h2, h3, h4]
  rw [dispatchKey, DState.code_ofCode, SState.code_ofCode]
  exact h.symm

/-- To show a fact of every key, show it of every choice of the three fields. -/
theorem forall_key {P : Key → Prop} (h : ∀ d t w, P (dispatchKey d t w)) (k : Key) : P k := by
  rw [eq_dispatchKey k]; exact h _ _ _

/-- A command word is a BIT word or a control word or reserved (30_encoding.md R71). -/
theorem word_cases (w : Word) :
    (∃ raw, w = bitWord raw) ∨ (∃ c : Control, w = c.word) ∨ w = 6#3 ∨ w = 7#3 := by
  have h : ∀ n : Fin 8, (∃ raw, (BitVec.ofFin n : Word) = bitWord raw) ∨
      (BitVec.ofFin n : Word) = Control.enable.word ∨ (BitVec.ofFin n : Word) = Control.disable.word ∨
      (BitVec.ofFin n : Word) = Control.readState.word ∨ (BitVec.ofFin n : Word) = Control.readError.word ∨
      (BitVec.ofFin n : Word) = 6#3 ∨ (BitVec.ofFin n : Word) = 7#3 := by decide
  rcases h w.toFin with h | h | h | h | h | h
  · exact .inl h
  · exact .inr (.inl ⟨_, h⟩)
  · exact .inr (.inl ⟨_, h⟩)
  · exact .inr (.inl ⟨_, h⟩)
  · exact .inr (.inl ⟨_, h⟩)
  · exact .inr (.inr h)

@[simp] theorem decodeCommand_bitWord (raw : Bool) (d : DState) (t : SState) :
    decodeCommand (bitWord raw) d t = decodeBit raw d t := by cases raw <;> rfl

@[simp] theorem decodeCommand_enable (d : DState) (t : SState) : decodeCommand Control.enable.word d t = .ok .enable := rfl

@[simp] theorem decodeCommand_disable (d : DState) (t : SState) :
    decodeCommand Control.disable.word d t = .ok .disable := rfl

@[simp] theorem decodeCommand_readState (d : DState) (t : SState) :
    decodeCommand Control.readState.word d t = .ok .readState := rfl

@[simp] theorem decodeCommand_readError (d : DState) (t : SState) :
    decodeCommand Control.readError.word d t = .ok .readError := rfl

end Sys2Proof

namespace Sys2Proof.Machine

/-- A command is the decode procedure on the state's DSTATE and SSTATE, then `exec`. -/
theorem command_eq (w : Word) (s : State) :
    command w s = (match decodeCommand w s.dstate s.sstate with
      | .ok i => exec i s
      | .error e => .refused (refusalOf e)) :=
  congrArg (fun r : Except DecodeError Instr => match r with
    | .ok i => exec i s
    | .error e => Host.Outcome.refused (refusalOf e)) (decode_dispatchKey s.dstate s.sstate w)

@[simp] theorem isBitWord_bitWord (raw : Bool) : isBitWord (bitWord raw) = true := by cases raw <;> rfl

@[simp] theorem isBitWord_control (c : Control) : isBitWord c.word = false := by cases c <;> rfl

@[simp] theorem bitWord_getElem (raw : Bool) : (bitWord raw)[0] = raw := by cases raw <;> rfl

theorem bitWord_getLsbD (raw : Bool) : (bitWord raw).getLsbD 0 = raw := by cases raw <;> rfl

end Sys2Proof.Machine
end

