-- ==== Sys2Proof/Laws/State.lean ====
section
/-! SUPPORT. What each shared operation leaves in each field of State: one lemma per field per operation, true by rfl. -/

namespace Sys2Proof.Machine

@[simp] theorem emit_rawprev (s : State) (e : Event) : (s.emit e).rawprev = s.rawprev := rfl
@[simp] theorem emit_win (s : State) (e : Event) : (s.emit e).win = s.win := rfl
@[simp] theorem emit_dstate (s : State) (e : Event) : (s.emit e).dstate = s.dstate := rfl
@[simp] theorem emit_sstate (s : State) (e : Event) : (s.emit e).sstate = s.sstate := rfl
@[simp] theorem emit_scount (s : State) (e : Event) : (s.emit e).scount = s.scount := rfl
@[simp] theorem emit_bitcnt (s : State) (e : Event) : (s.emit e).bitcnt = s.bitcnt := rfl
@[simp] theorem emit_run (s : State) (e : Event) : (s.emit e).run = s.run := rfl
@[simp] theorem emit_crc (s : State) (e : Event) : (s.emit e).crc = s.crc := rfl
@[simp] theorem emit_byte (s : State) (e : Event) : (s.emit e).byte = s.byte := rfl
@[simp] theorem emit_bytecnt (s : State) (e : Event) : (s.emit e).bytecnt = s.bytecnt := rfl
@[simp] theorem emit_chan (s : State) (e : Event) : (s.emit e).chan = s.chan := rfl
@[simp] theorem emit_lasterr (s : State) (e : Event) : (s.emit e).lasterr = s.lasterr := rfl
@[simp] theorem emit_params (s : State) (e : Event) : (s.emit e).params = s.params := rfl
@[simp] theorem emit_stream (s : State) (e : Event) : (s.emit e).stream = s.stream := rfl
@[simp] theorem emit_events (s : State) (e : Event) : (s.emit e).events = s.events ++ [e] := rfl
@[simp] theorem emit_results (s : State) (e : Event) : (s.emit e).results = s.results := rfl
@[simp] theorem emit_draws (s : State) (e : Event) : (s.emit e).draws = s.draws := rfl

@[simp] theorem answer_rawprev (s : State) (r : ReadResult) : (s.answer r).rawprev = s.rawprev := rfl
@[simp] theorem answer_win (s : State) (r : ReadResult) : (s.answer r).win = s.win := rfl
@[simp] theorem answer_dstate (s : State) (r : ReadResult) : (s.answer r).dstate = s.dstate := rfl
@[simp] theorem answer_sstate (s : State) (r : ReadResult) : (s.answer r).sstate = s.sstate := rfl
@[simp] theorem answer_scount (s : State) (r : ReadResult) : (s.answer r).scount = s.scount := rfl
@[simp] theorem answer_bitcnt (s : State) (r : ReadResult) : (s.answer r).bitcnt = s.bitcnt := rfl
@[simp] theorem answer_run (s : State) (r : ReadResult) : (s.answer r).run = s.run := rfl
@[simp] theorem answer_crc (s : State) (r : ReadResult) : (s.answer r).crc = s.crc := rfl
@[simp] theorem answer_byte (s : State) (r : ReadResult) : (s.answer r).byte = s.byte := rfl
@[simp] theorem answer_bytecnt (s : State) (r : ReadResult) : (s.answer r).bytecnt = s.bytecnt := rfl
@[simp] theorem answer_chan (s : State) (r : ReadResult) : (s.answer r).chan = s.chan := rfl
@[simp] theorem answer_lasterr (s : State) (r : ReadResult) : (s.answer r).lasterr = s.lasterr := rfl
@[simp] theorem answer_params (s : State) (r : ReadResult) : (s.answer r).params = s.params := rfl
@[simp] theorem answer_stream (s : State) (r : ReadResult) : (s.answer r).stream = s.stream := rfl
@[simp] theorem answer_events (s : State) (r : ReadResult) : (s.answer r).events = s.events := rfl
@[simp] theorem answer_results (s : State) (r : ReadResult) : (s.answer r).results = s.results ++ [r] := rfl
@[simp] theorem answer_draws (s : State) (r : ReadResult) : (s.answer r).draws = s.draws := rfl

@[simp] theorem nrziPrelude_rawprev (raw : Bool) (s : State) : (nrziPrelude raw s).rawprev = raw := rfl
@[simp] theorem nrziPrelude_win (raw : Bool) (s : State) : (nrziPrelude raw s).win = shiftWindow s.win (s.decodedBit raw) := rfl
@[simp] theorem nrziPrelude_dstate (raw : Bool) (s : State) : (nrziPrelude raw s).dstate = s.dstate := rfl
@[simp] theorem nrziPrelude_sstate (raw : Bool) (s : State) : (nrziPrelude raw s).sstate = s.sstate := rfl
@[simp] theorem nrziPrelude_scount (raw : Bool) (s : State) : (nrziPrelude raw s).scount = s.scount := rfl
@[simp] theorem nrziPrelude_bitcnt (raw : Bool) (s : State) : (nrziPrelude raw s).bitcnt = s.bitcnt := rfl
@[simp] theorem nrziPrelude_run (raw : Bool) (s : State) : (nrziPrelude raw s).run = s.run := rfl
@[simp] theorem nrziPrelude_crc (raw : Bool) (s : State) : (nrziPrelude raw s).crc = s.crc := rfl
@[simp] theorem nrziPrelude_byte (raw : Bool) (s : State) : (nrziPrelude raw s).byte = s.byte := rfl
@[simp] theorem nrziPrelude_bytecnt (raw : Bool) (s : State) : (nrziPrelude raw s).bytecnt = s.bytecnt := rfl
@[simp] theorem nrziPrelude_chan (raw : Bool) (s : State) : (nrziPrelude raw s).chan = s.chan := rfl
@[simp] theorem nrziPrelude_lasterr (raw : Bool) (s : State) : (nrziPrelude raw s).lasterr = s.lasterr := rfl
@[simp] theorem nrziPrelude_params (raw : Bool) (s : State) : (nrziPrelude raw s).params = s.params := rfl
@[simp] theorem nrziPrelude_stream (raw : Bool) (s : State) : (nrziPrelude raw s).stream = s.stream := rfl
@[simp] theorem nrziPrelude_events (raw : Bool) (s : State) : (nrziPrelude raw s).events = s.events := rfl
@[simp] theorem nrziPrelude_results (raw : Bool) (s : State) : (nrziPrelude raw s).results = s.results := rfl
@[simp] theorem nrziPrelude_draws (raw : Bool) (s : State) : (nrziPrelude raw s).draws = s.draws := rfl

@[simp] theorem countBit_rawprev (s : State) : (countBit s).rawprev = s.rawprev := rfl
@[simp] theorem countBit_win (s : State) : (countBit s).win = s.win := rfl
@[simp] theorem countBit_dstate (s : State) : (countBit s).dstate = s.dstate := rfl
@[simp] theorem countBit_sstate (s : State) : (countBit s).sstate = s.sstate := rfl
@[simp] theorem countBit_scount (s : State) : (countBit s).scount = s.scount := rfl
@[simp] theorem countBit_bitcnt (s : State) : (countBit s).bitcnt = inc s.params.counterOverflow s.bitcnt := rfl
@[simp] theorem countBit_run (s : State) : (countBit s).run = s.run := rfl
@[simp] theorem countBit_crc (s : State) : (countBit s).crc = s.crc := rfl
@[simp] theorem countBit_byte (s : State) : (countBit s).byte = s.byte := rfl
@[simp] theorem countBit_bytecnt (s : State) : (countBit s).bytecnt = s.bytecnt := rfl
@[simp] theorem countBit_chan (s : State) : (countBit s).chan = s.chan := rfl
@[simp] theorem countBit_lasterr (s : State) : (countBit s).lasterr = s.lasterr := rfl
@[simp] theorem countBit_params (s : State) : (countBit s).params = s.params := rfl
@[simp] theorem countBit_stream (s : State) : (countBit s).stream = s.stream := rfl
@[simp] theorem countBit_events (s : State) : (countBit s).events = s.events := rfl
@[simp] theorem countBit_results (s : State) : (countBit s).results = s.results := rfl
@[simp] theorem countBit_draws (s : State) : (countBit s).draws = s.draws := rfl

@[simp] theorem countRun_rawprev (s : State) : (countRun s).rawprev = s.rawprev := rfl
@[simp] theorem countRun_win (s : State) : (countRun s).win = s.win := rfl
@[simp] theorem countRun_dstate (s : State) : (countRun s).dstate = s.dstate := rfl
@[simp] theorem countRun_sstate (s : State) : (countRun s).sstate = s.sstate := rfl
@[simp] theorem countRun_scount (s : State) : (countRun s).scount = inc s.params.counterOverflow s.scount := rfl
@[simp] theorem countRun_bitcnt (s : State) : (countRun s).bitcnt = s.bitcnt := rfl
@[simp] theorem countRun_run (s : State) : (countRun s).run = s.run := rfl
@[simp] theorem countRun_crc (s : State) : (countRun s).crc = s.crc := rfl
@[simp] theorem countRun_byte (s : State) : (countRun s).byte = s.byte := rfl
@[simp] theorem countRun_bytecnt (s : State) : (countRun s).bytecnt = s.bytecnt := rfl
@[simp] theorem countRun_chan (s : State) : (countRun s).chan = s.chan := rfl
@[simp] theorem countRun_lasterr (s : State) : (countRun s).lasterr = s.lasterr := rfl
@[simp] theorem countRun_params (s : State) : (countRun s).params = s.params := rfl
@[simp] theorem countRun_stream (s : State) : (countRun s).stream = s.stream := rfl
@[simp] theorem countRun_events (s : State) : (countRun s).events = s.events := rfl
@[simp] theorem countRun_results (s : State) : (countRun s).results = s.results := rfl
@[simp] theorem countRun_draws (s : State) : (countRun s).draws = s.draws := rfl

@[simp] theorem clearAssembler_rawprev (s : State) : (clearAssembler s).rawprev = s.rawprev := rfl
@[simp] theorem clearAssembler_win (s : State) : (clearAssembler s).win = s.win := rfl
@[simp] theorem clearAssembler_dstate (s : State) : (clearAssembler s).dstate = s.dstate := rfl
@[simp] theorem clearAssembler_sstate (s : State) : (clearAssembler s).sstate = s.sstate := rfl
@[simp] theorem clearAssembler_scount (s : State) : (clearAssembler s).scount = s.scount := rfl
@[simp] theorem clearAssembler_bitcnt (s : State) : (clearAssembler s).bitcnt = s.bitcnt := rfl
@[simp] theorem clearAssembler_run (s : State) : (clearAssembler s).run = 0#3 := rfl
@[simp] theorem clearAssembler_crc (s : State) : (clearAssembler s).crc = Config.crcSeed := rfl
@[simp] theorem clearAssembler_byte (s : State) : (clearAssembler s).byte = 0x00#8 := rfl
@[simp] theorem clearAssembler_bytecnt (s : State) : (clearAssembler s).bytecnt = 0#3 := rfl
@[simp] theorem clearAssembler_chan (s : State) : (clearAssembler s).chan = s.chan := rfl
@[simp] theorem clearAssembler_lasterr (s : State) : (clearAssembler s).lasterr = s.lasterr := rfl
@[simp] theorem clearAssembler_params (s : State) : (clearAssembler s).params = s.params := rfl
@[simp] theorem clearAssembler_stream (s : State) : (clearAssembler s).stream = s.stream := rfl
@[simp] theorem clearAssembler_events (s : State) : (clearAssembler s).events = s.events := rfl
@[simp] theorem clearAssembler_results (s : State) : (clearAssembler s).results = s.results := rfl
@[simp] theorem clearAssembler_draws (s : State) : (clearAssembler s).draws = s.draws := rfl

@[simp] theorem syncFound_rawprev (s : State) : (syncFound s).rawprev = s.rawprev := rfl
@[simp] theorem syncFound_win (s : State) : (syncFound s).win = s.win := rfl
@[simp] theorem syncFound_dstate (s : State) : (syncFound s).dstate = .prefetch := rfl
@[simp] theorem syncFound_sstate (s : State) : (syncFound s).sstate = s.sstate := rfl
@[simp] theorem syncFound_scount (s : State) : (syncFound s).scount = s.scount := rfl
@[simp] theorem syncFound_bitcnt (s : State) : (syncFound s).bitcnt = 0#16 := rfl
@[simp] theorem syncFound_run (s : State) : (syncFound s).run = s.run := rfl
@[simp] theorem syncFound_crc (s : State) : (syncFound s).crc = s.crc := rfl
@[simp] theorem syncFound_byte (s : State) : (syncFound s).byte = s.byte := rfl
@[simp] theorem syncFound_bytecnt (s : State) : (syncFound s).bytecnt = s.bytecnt := rfl
@[simp] theorem syncFound_chan (s : State) : (syncFound s).chan = s.chan := rfl
@[simp] theorem syncFound_lasterr (s : State) : (syncFound s).lasterr = s.lasterr := rfl
@[simp] theorem syncFound_params (s : State) : (syncFound s).params = s.params := rfl
@[simp] theorem syncFound_stream (s : State) : (syncFound s).stream = s.stream := rfl
@[simp] theorem syncFound_events (s : State) : (syncFound s).events = s.events := rfl
@[simp] theorem syncFound_results (s : State) : (syncFound s).results = s.results := rfl
@[simp] theorem syncFound_draws (s : State) : (syncFound s).draws = s.draws := rfl

@[simp] theorem exitToReset_rawprev (o : ExitOutcome) (s : State) : (exitToReset o s).rawprev = s.rawprev := rfl
@[simp] theorem exitToReset_win (o : ExitOutcome) (s : State) : (exitToReset o s).win = s.win := rfl
@[simp] theorem exitToReset_dstate (o : ExitOutcome) (s : State) : (exitToReset o s).dstate = .reset := rfl
@[simp] theorem exitToReset_sstate (o : ExitOutcome) (s : State) : (exitToReset o s).sstate = s.sstate := rfl
@[simp] theorem exitToReset_scount (o : ExitOutcome) (s : State) : (exitToReset o s).scount = s.scount := rfl
@[simp] theorem exitToReset_bitcnt (o : ExitOutcome) (s : State) : (exitToReset o s).bitcnt = s.bitcnt := rfl
@[simp] theorem exitToReset_run (o : ExitOutcome) (s : State) : (exitToReset o s).run = s.run := rfl
@[simp] theorem exitToReset_crc (o : ExitOutcome) (s : State) : (exitToReset o s).crc = s.crc := rfl
@[simp] theorem exitToReset_byte (o : ExitOutcome) (s : State) : (exitToReset o s).byte = s.byte := rfl
@[simp] theorem exitToReset_bytecnt (o : ExitOutcome) (s : State) : (exitToReset o s).bytecnt = s.bytecnt := rfl
@[simp] theorem exitToReset_chan (o : ExitOutcome) (s : State) : (exitToReset o s).chan = !s.chan := rfl
@[simp] theorem exitToReset_lasterr (o : ExitOutcome) (s : State) : (exitToReset o s).lasterr = (recordedError o).getD s.lasterr := rfl
@[simp] theorem exitToReset_params (o : ExitOutcome) (s : State) : (exitToReset o s).params = s.params := rfl
@[simp] theorem exitToReset_stream (o : ExitOutcome) (s : State) : (exitToReset o s).stream = s.stream := rfl
@[simp] theorem exitToReset_events (o : ExitOutcome) (s : State) :
    (exitToReset o s).events = s.events ++ [packetEvent o, .hop (!s.chan)] := by
  simp [exitToReset, State.emit]
@[simp] theorem exitToReset_results (o : ExitOutcome) (s : State) : (exitToReset o s).results = s.results := rfl
@[simp] theorem exitToReset_draws (o : ExitOutcome) (s : State) : (exitToReset o s).draws = s.draws := rfl

@[simp] theorem resetStep_rawprev (s : State) : (resetStep s).rawprev = s.rawprev := rfl
@[simp] theorem resetStep_win (s : State) : (resetStep s).win = s.win &&& 0x8000#16 := rfl
@[simp] theorem resetStep_dstate (s : State) : (resetStep s).dstate = .waiting := rfl
@[simp] theorem resetStep_sstate (s : State) : (resetStep s).sstate = .sreset := rfl
@[simp] theorem resetStep_scount (s : State) : (resetStep s).scount = 0#8 := rfl
@[simp] theorem resetStep_bitcnt (s : State) : (resetStep s).bitcnt = 0#16 := rfl
@[simp] theorem resetStep_run (s : State) : (resetStep s).run = 0#3 := rfl
@[simp] theorem resetStep_crc (s : State) : (resetStep s).crc = Config.crcSeed := rfl
@[simp] theorem resetStep_byte (s : State) : (resetStep s).byte = 0x00#8 := rfl
@[simp] theorem resetStep_bytecnt (s : State) : (resetStep s).bytecnt = 0#3 := rfl
@[simp] theorem resetStep_chan (s : State) : (resetStep s).chan = s.chan := rfl
@[simp] theorem resetStep_lasterr (s : State) : (resetStep s).lasterr = s.lasterr := rfl
@[simp] theorem resetStep_params (s : State) : (resetStep s).params = s.params := rfl
@[simp] theorem resetStep_stream (s : State) : (resetStep s).stream = s.stream := rfl
@[simp] theorem resetStep_events (s : State) : (resetStep s).events = s.events ++ [.beginPacket s.chan] := rfl
@[simp] theorem resetStep_results (s : State) : (resetStep s).results = s.results := rfl
@[simp] theorem resetStep_draws (s : State) : (resetStep s).draws = s.draws := rfl

@[simp] theorem syncPrelude_rawprev (raw : Bool) (s : State) : (syncPrelude raw s).rawprev = raw := rfl
@[simp] theorem syncPrelude_win (raw : Bool) (s : State) : (syncPrelude raw s).win = shiftWindow s.win (s.decodedBit raw) := rfl
@[simp] theorem syncPrelude_dstate (raw : Bool) (s : State) : (syncPrelude raw s).dstate = s.dstate := rfl
@[simp] theorem syncPrelude_sstate (raw : Bool) (s : State) : (syncPrelude raw s).sstate = s.sstate := rfl
@[simp] theorem syncPrelude_scount (raw : Bool) (s : State) : (syncPrelude raw s).scount = s.scount := rfl
@[simp] theorem syncPrelude_bitcnt (raw : Bool) (s : State) : (syncPrelude raw s).bitcnt = inc s.params.counterOverflow s.bitcnt := rfl
@[simp] theorem syncPrelude_run (raw : Bool) (s : State) : (syncPrelude raw s).run = s.run := rfl
@[simp] theorem syncPrelude_crc (raw : Bool) (s : State) : (syncPrelude raw s).crc = s.crc := rfl
@[simp] theorem syncPrelude_byte (raw : Bool) (s : State) : (syncPrelude raw s).byte = s.byte := rfl
@[simp] theorem syncPrelude_bytecnt (raw : Bool) (s : State) : (syncPrelude raw s).bytecnt = s.bytecnt := rfl
@[simp] theorem syncPrelude_chan (raw : Bool) (s : State) : (syncPrelude raw s).chan = s.chan := rfl
@[simp] theorem syncPrelude_lasterr (raw : Bool) (s : State) : (syncPrelude raw s).lasterr = s.lasterr := rfl
@[simp] theorem syncPrelude_params (raw : Bool) (s : State) : (syncPrelude raw s).params = s.params := rfl
@[simp] theorem syncPrelude_stream (raw : Bool) (s : State) : (syncPrelude raw s).stream = s.stream := rfl
@[simp] theorem syncPrelude_events (raw : Bool) (s : State) : (syncPrelude raw s).events = s.events := rfl
@[simp] theorem syncPrelude_results (raw : Bool) (s : State) : (syncPrelude raw s).results = s.results := rfl
@[simp] theorem syncPrelude_draws (raw : Bool) (s : State) : (syncPrelude raw s).draws = s.draws := rfl

end Sys2Proof.Machine
end

