-- ==== Sys2Proof/Laws/Operands.lean ====
section
/-! SUPPORT. Bit by bit: the window, the assembler input, the byte under assembly, and the counters. -/

namespace Sys2Proof.Machine

theorem zextBit_getLsbD (n : Nat) (b : Bool) (i : Nat) : (zextBit n b).getLsbD i = (decide (i = 0) && decide (i < n) && b) := by
  unfold zextBit
  cases b <;> simp [BitVec.getLsbD_setWidth, Bool.and_comm]

/-- 40_nrzi.md R103, bit by bit. -/
theorem shiftWindow_getLsbD (w : BitVec 16) (d : Bool) (i : Nat) :
    (shiftWindow w d).getLsbD i = if i = 15 then d else w.getLsbD (i + 1) := by
  unfold shiftWindow
  simp only [BitVec.getLsbD_or, BitVec.getLsbD_ushiftRight, BitVec.getLsbD_shiftLeft, zextBit_getLsbD]
  by_cases h : i = 15
  · subst h; simp
  · by_cases h2 : i < 15
    · simp [h, h2, Nat.add_comm]
    · have h3 : ¬ i < 16 := by omega
      simp [h, h3, Nat.add_comm]

/-- The assembler input after the prelude is the old WIN[8] (42_frame_assembler.md R131). -/
theorem assemblerInput_shiftWindow (w : BitVec 16) (d : Bool) : assemblerInput (shiftWindow w d) = w.getLsbD 8 := by
  rw [assemblerInput, shiftWindow_getLsbD, if_neg (by decide)]

/-- 42_frame_assembler.md R133, bit by bit. -/
theorem shiftByte_getLsbD (b : Byte) (a : Bool) (i : Nat) :
    (shiftByte b a).getLsbD i = if i = 7 then a else b.getLsbD (i + 1) := by
  unfold shiftByte
  simp only [BitVec.getLsbD_or, BitVec.getLsbD_ushiftRight, BitVec.getLsbD_shiftLeft, zextBit_getLsbD]
  by_cases h : i = 7
  · subst h; simp
  · by_cases h2 : i < 7
    · simp [h, h2, Nat.add_comm]
    · have h3 : ¬ i < 8 := by omega
      simp [h, h3, Nat.add_comm]

/-- The Reset step keeps WIN[15] only (43_packet_handler.md R162). -/
theorem keepNewest_getLsbD (w : BitVec 16) (i : Nat) : (w &&& 0x8000#16).getLsbD i = (decide (i = 15) && w.getLsbD i) := by
  rw [BitVec.getLsbD_and]
  by_cases h2 : i < 16
  · have h : ∀ j : Fin 16, (0x8000#16).getLsbD j = decide (j.val = 15) := by decide
    have := h ⟨i, h2⟩
    simp only at this
    rw [this, Bool.and_comm]
  · have : w.getLsbD i = false := BitVec.getLsbD_of_ge _ _ (by omega)
    simp [this]

/-- `inc` below the maximum (10_state.md R37). -/
theorem inc_toNat {n : Nat} (mode : CounterOverflow) (c : BitVec n) (h : c.toNat < 2 ^ n - 1) :
    (inc mode c).toNat = c.toNat + 1 := by
  have hne : c ≠ BitVec.allOnes n := by
    intro h'; rw [h', BitVec.toNat_allOnes] at h; omega
  have h1 : 1 < 2 ^ n := by omega
  have h2 : (1 : BitVec n).toNat = 1 := by
    rw [show (1 : BitVec n) = BitVec.ofNat n 1 from rfl, BitVec.toNat_ofNat, Nat.mod_eq_of_lt h1]
  simp only [inc, if_neg hne, BitVec.toNat_add, h2]
  rw [Nat.mod_eq_of_lt (by omega)]

theorem eq_allOnes_of_toNat {n : Nat} (c : BitVec n) (h : c.toNat = 2 ^ n - 1) : c = BitVec.allOnes n := by
  apply BitVec.eq_of_toNat_eq; rw [h, BitVec.toNat_allOnes]

end Sys2Proof.Machine
end

