-- ==== Sys2Proof/Laws/Ops.lean ====
section
/-! SUPPORT. Once for each shared operation what it can do, for the proofs to cite instead of unfolding it. -/

namespace Sys2Proof.Machine

theorem decodedBit_of_eq {s : State} {raw : Bool} (h : s.rawprev = raw) : s.decodedBit raw = true := by
  subst h; simp [State.decodedBit, nrziDecode]

theorem decodedBit_of_ne {s : State} {raw : Bool} (h : s.rawprev ≠ raw) : s.decodedBit raw = false := by
  revert h; unfold State.decodedBit nrziDecode; cases s.rawprev <;> cases raw <;> simp

/-- The decoded bit is 1 exactly when the line did not move (40_nrzi.md R101). -/
theorem decodedBit_eq (s : State) (raw : Bool) : s.decodedBit raw = (s.rawprev == raw) := by
  unfold State.decodedBit nrziDecode; cases s.rawprev <;> cases raw <;> rfl

/-- From 1 up the flag count takes one away (41_synchronizer.md R114). -/
theorem countFlagBit_of_pos {s : State} (h : 1 ≤ s.scount.toNat) :
    countFlagBit s = { s with scount := s.scount - 1#8 } := by
  have hne : s.scount ≠ 0#8 := by intro h'; rw [h'] at h; revert h; decide
  rw [countFlagBit, if_neg hne]

/-- The flag count writes SCOUNT and, where it draws a free value, the draw counter. -/
theorem countFlagBit_frame (s : State) :
    countFlagBit s = { s with scount := (countFlagBit s).scount, draws := (countFlagBit s).draws } := by
  unfold countFlagBit; split <;> rfl

/-- Below 7 the run of ones counts or restarts (42_frame_assembler.md R134). -/
theorem trackRun_of_lt {s : State} (a : Bool) (h : s.run.toNat < 7) :
    trackRun a s = { s with run := if a then s.run + 1#3 else 0#3 } := by
  have hne : s.run ≠ BitVec.allOnes 3 := by intro h'; rw [h'] at h; revert h; decide
  cases a <;> simp [trackRun]
  intro h'; exact absurd h' hne

/-- The run of ones writes RUN and, where it draws a free value, the draw counter. -/
theorem trackRun_frame (a : Bool) (s : State) :
    trackRun a s = { s with run := (trackRun a s).run, draws := (trackRun a s).draws } := by
  unfold trackRun; split
  · split <;> rfl
  · rfl

@[simp] theorem countFlagBit_rawprev (s : State) : (countFlagBit s).rawprev = s.rawprev := by rw [countFlagBit_frame]
@[simp] theorem countFlagBit_win (s : State) : (countFlagBit s).win = s.win := by rw [countFlagBit_frame]
@[simp] theorem countFlagBit_dstate (s : State) : (countFlagBit s).dstate = s.dstate := by rw [countFlagBit_frame]
@[simp] theorem countFlagBit_sstate (s : State) : (countFlagBit s).sstate = s.sstate := by rw [countFlagBit_frame]
@[simp] theorem countFlagBit_bitcnt (s : State) : (countFlagBit s).bitcnt = s.bitcnt := by rw [countFlagBit_frame]
@[simp] theorem countFlagBit_run (s : State) : (countFlagBit s).run = s.run := by rw [countFlagBit_frame]
@[simp] theorem countFlagBit_crc (s : State) : (countFlagBit s).crc = s.crc := by rw [countFlagBit_frame]
@[simp] theorem countFlagBit_byte (s : State) : (countFlagBit s).byte = s.byte := by rw [countFlagBit_frame]
@[simp] theorem countFlagBit_bytecnt (s : State) : (countFlagBit s).bytecnt = s.bytecnt := by rw [countFlagBit_frame]
@[simp] theorem countFlagBit_chan (s : State) : (countFlagBit s).chan = s.chan := by rw [countFlagBit_frame]
@[simp] theorem countFlagBit_lasterr (s : State) : (countFlagBit s).lasterr = s.lasterr := by rw [countFlagBit_frame]
@[simp] theorem countFlagBit_params (s : State) : (countFlagBit s).params = s.params := by rw [countFlagBit_frame]
@[simp] theorem countFlagBit_stream (s : State) : (countFlagBit s).stream = s.stream := by rw [countFlagBit_frame]
@[simp] theorem countFlagBit_events (s : State) : (countFlagBit s).events = s.events := by rw [countFlagBit_frame]
@[simp] theorem countFlagBit_results (s : State) : (countFlagBit s).results = s.results := by rw [countFlagBit_frame]

@[simp] theorem trackRun_rawprev (a : Bool) (s : State) : (trackRun a s).rawprev = s.rawprev := by rw [trackRun_frame]
@[simp] theorem trackRun_win (a : Bool) (s : State) : (trackRun a s).win = s.win := by rw [trackRun_frame]
@[simp] theorem trackRun_dstate (a : Bool) (s : State) : (trackRun a s).dstate = s.dstate := by rw [trackRun_frame]
@[simp] theorem trackRun_sstate (a : Bool) (s : State) : (trackRun a s).sstate = s.sstate := by rw [trackRun_frame]
@[simp] theorem trackRun_scount (a : Bool) (s : State) : (trackRun a s).scount = s.scount := by rw [trackRun_frame]
@[simp] theorem trackRun_bitcnt (a : Bool) (s : State) : (trackRun a s).bitcnt = s.bitcnt := by rw [trackRun_frame]
@[simp] theorem trackRun_crc (a : Bool) (s : State) : (trackRun a s).crc = s.crc := by rw [trackRun_frame]
@[simp] theorem trackRun_byte (a : Bool) (s : State) : (trackRun a s).byte = s.byte := by rw [trackRun_frame]
@[simp] theorem trackRun_bytecnt (a : Bool) (s : State) : (trackRun a s).bytecnt = s.bytecnt := by rw [trackRun_frame]
@[simp] theorem trackRun_chan (a : Bool) (s : State) : (trackRun a s).chan = s.chan := by rw [trackRun_frame]
@[simp] theorem trackRun_lasterr (a : Bool) (s : State) : (trackRun a s).lasterr = s.lasterr := by rw [trackRun_frame]
@[simp] theorem trackRun_params (a : Bool) (s : State) : (trackRun a s).params = s.params := by rw [trackRun_frame]
@[simp] theorem trackRun_stream (a : Bool) (s : State) : (trackRun a s).stream = s.stream := by rw [trackRun_frame]
@[simp] theorem trackRun_events (a : Bool) (s : State) : (trackRun a s).events = s.events := by rw [trackRun_frame]
@[simp] theorem trackRun_results (a : Bool) (s : State) : (trackRun a s).results = s.results := by rw [trackRun_frame]

theorem takeBit_frame (a : Bool) (s : State) :
    takeBit a s = { s with
      byte := shiftByte s.byte a, run := (trackRun a s).run, crc := crcStep s.crc a, draws := (trackRun a s).draws } := by
  unfold takeBit trackRun; split
  · split <;> simp_all
  · rfl

/-- The flush: the eighth bit appends the byte and clears it, any other counts (42_frame_assembler.md R136). -/
theorem flushByte_eq (s : State) :
    flushByte s = { s with
      byte := if s.bytecnt = 7#3 then 0x00#8 else s.byte
      bytecnt := if s.bytecnt = 7#3 then 0#3 else s.bytecnt + 1#3
      events := s.events ++ (if s.bytecnt = 7#3 then [.append s.byte] else []) } := by
  unfold flushByte; split <;> simp [State.emit, *]

/-- ExitToReset in one record (43_packet_handler.md R164). -/
theorem exitToReset_eq (o : ExitOutcome) (s : State) :
    exitToReset o s = { s with
      events := s.events ++ [packetEvent o, .hop (!s.chan)]
      lasterr := (recordedError o).getD s.lasterr
      chan := !s.chan
      dstate := .reset } := by
  simp [exitToReset, State.emit]

/-- The end-flag test leaves the state, or ends the frame one way or the other (42_frame_assembler.md R138, R139). -/
theorem endFlagTest_cases (s : State) :
    (newestByte s.win ≠ Config.flag ∧ endFlagTest s = s) ∨
    (newestByte s.win = Config.flag ∧ s.crc = Config.crcResidue ∧ endFlagTest s = exitToReset .commit s) ∨
    (newestByte s.win = Config.flag ∧ s.crc ≠ Config.crcResidue ∧ endFlagTest s = exitToReset .crcMismatch s) := by
  unfold endFlagTest; split
  · split
    · exact .inr (.inl ⟨‹_›, ‹_›, rfl⟩)
    · exact .inr (.inr ⟨‹_›, ‹_›, rfl⟩)
  · exact .inl ⟨‹_›, rfl⟩

/-- What BIT.RECEIVE can do, each way with its condition (42_frame_assembler.md R130). -/
theorem execBitReceive_cases (raw : Bool) (s : State) :
    let p := nrziPrelude raw s
    let a := s.win.getLsbD 8
    let q := countBit (flushByte (takeBit a p))
    (s.run = 5#3 ∧ a = true ∧ execBitReceive raw s = .next (exitToReset .stuffBitViolation p)) ∨
    (s.run = 5#3 ∧ a = false ∧ execBitReceive raw s = .next (endFlagTest { p with run := 0#3 })) ∨
    (s.run ≠ 5#3 ∧ q.bitcnt.toNat > s.params.maxFrameBits ∧ execBitReceive raw s = .next (exitToReset .noEndFlag q)) ∨
    (s.run ≠ 5#3 ∧ q.bitcnt.toNat ≤ s.params.maxFrameBits ∧ execBitReceive raw s = .next (endFlagTest q)) := by
  intro p a q
  have ha : assemblerInput (nrziPrelude raw s).win = a := by
    rw [nrziPrelude_win, assemblerInput_shiftWindow]
  have hq : q.params = s.params := by
    show (countBit (flushByte (takeBit a p))).params = _
    rw [countBit_params, flushByte_eq, takeBit_frame]; rfl
  unfold execBitReceive
  simp only [ha]
  by_cases h : s.run = 5#3
  · rw [if_pos (show StuffBitDue (nrziPrelude raw s).run from h)]
    cases hb : a with
    | true => exact .inl ⟨h, rfl, rfl⟩
    | false => exact .inr (.inl ⟨h, rfl, rfl⟩)
  · rw [if_neg (show ¬ StuffBitDue (nrziPrelude raw s).run from h)]
    by_cases hf : q.bitcnt.toNat > s.params.maxFrameBits
    · rw [if_pos (show FrameTooLong q.params q.bitcnt by rw [hq]; exact hf)]
      exact .inr (.inr (.inl ⟨h, hf, rfl⟩))
    · rw [if_neg (show ¬ FrameTooLong q.params q.bitcnt by rw [hq]; exact hf)]
      exact .inr (.inr (.inr ⟨h, Nat.not_lt.mp hf, rfl⟩))

/-- A command is refused, or it runs an instruction whose meaning `exec` gives (43_packet_handler.md R160, R167 to R172). -/
theorem command_cases (w : Word) (s : State) :
    (∃ raw, w = bitWord raw ∧
      ((s.dstate = .off ∧ command w s = execBitOff raw s) ∨
        (s.dstate = .reset ∧ command w s = execBitReset raw s) ∨
        (s.dstate = .waiting ∧ s.sstate = .sreset ∧ command w s = execBitSyncReset raw s) ∨
        (s.dstate = .waiting ∧ s.sstate = .sawZero ∧ command w s = execBitSyncSawZero raw s) ∨
        (s.dstate = .waiting ∧ s.sstate = .sawOne ∧ command w s = execBitSyncSawOne raw s) ∨
        (s.dstate = .waiting ∧ s.sstate = .inFlag ∧ command w s = execBitSyncInFlag raw s) ∨
        (s.dstate = .prefetch ∧ command w s = execBitPrefetch raw s) ∨
        (s.dstate = .receiving ∧ command w s = execBitReceive raw s) ∨
        (s.dstate.assigned = false ∧ command w s = .refused (.bitInUnassignedState s.dstate)))) ∨
    (w = Control.enable.word ∧ command w s = execEnable s) ∨
    (w = Control.disable.word ∧ command w s = execDisable s) ∨
    (w = Control.readState.word ∧ command w s = execReadState s) ∨
    (w = Control.readError.word ∧ command w s = execReadError s) ∨
    ((w = 6#3 ∨ w = 7#3) ∧ command w s = .refused (.reservedCommand w)) := by
  rw [command_eq]
  rcases word_cases w with ⟨raw, rfl⟩ | ⟨c, rfl⟩ | rfl | rfl
  · refine .inl ⟨raw, rfl, ?_⟩
    rw [decodeCommand_bitWord]
    cases hd : s.dstate <;> cases ht : s.sstate <;> simp [decodeBit, exec, DState.assigned, DState.code, refusalOf]
  · cases c
    · exact .inr (.inl ⟨rfl, rfl⟩)
    · exact .inr (.inr (.inl ⟨rfl, rfl⟩))
    · exact .inr (.inr (.inr (.inl ⟨rfl, rfl⟩)))
    · exact .inr (.inr (.inr (.inr (.inl ⟨rfl, rfl⟩))))
  · exact .inr (.inr (.inr (.inr (.inr ⟨.inl rfl, rfl⟩))))
  · exact .inr (.inr (.inr (.inr (.inr ⟨.inr rfl, rfl⟩))))

/-- Taking the next command writes the stream and the draw counter and nothing else. -/
theorem fetch_frame {s s' : State} {w : Word} (h : fetch s = some (w, s')) :
    s' = { s with stream := s'.stream, draws := s'.draws } := by
  unfold fetch at h; split at h <;> cases h; rfl

/-- A step that answers next did nothing, or took one command and executed it. -/
theorem step_cases {s t : State} (h : step s = .next t) :
    (fetch s = none ∧ t = s) ∨ ∃ w s', fetch s = some (w, s') ∧ command w s' = .next t := by
  unfold step at h; split at h
  · cases h; exact .inl ⟨‹_›, rfl⟩
  · exact .inr ⟨_, _, ‹_›, h⟩

end Sys2Proof.Machine
end

