-- ==== Sys2Proof/Laws/Effect.lean ====
section
/-! SUPPORT. What one command can do, said once: every way a command answers a next state, with the condition of that way and the state it gives. Proofs about all commands go by cases on it. -/

namespace Sys2Proof.Machine

/-- The state after steps 1 to 5 of BIT.RECEIVE on a destuffed bit, before the ceiling test (42_frame_assembler.md R130). -/
def dataState (raw : Bool) (s : State) : State :=
  countBit (flushByte (takeBit (s.win.getLsbD 8) (nrziPrelude raw s)))

/-- The state of `dataState` in one record. -/
theorem dataState_eq (raw : Bool) (s : State) :
    dataState raw s = { nrziPrelude raw s with
      run := (trackRun (s.win.getLsbD 8) s).run
      crc := crcStep s.crc (s.win.getLsbD 8)
      bitcnt := inc s.params.counterOverflow s.bitcnt
      draws := (trackRun (s.win.getLsbD 8) s).draws
      byte := if s.bytecnt = 7#3 then 0x00#8 else shiftByte s.byte (s.win.getLsbD 8)
      bytecnt := if s.bytecnt = 7#3 then 0#3 else s.bytecnt + 1#3
      events := s.events ++ (if s.bytecnt = 7#3 then [.append (shiftByte s.byte (s.win.getLsbD 8))] else []) } := by
  have h : (trackRun (s.win.getLsbD 8) (nrziPrelude raw s)).run = (trackRun (s.win.getLsbD 8) s).run ∧
      (trackRun (s.win.getLsbD 8) (nrziPrelude raw s)).draws = (trackRun (s.win.getLsbD 8) s).draws := by
    unfold trackRun
    cases s.win.getLsbD 8 with
    | false => exact ⟨rfl, rfl⟩
    | true =>
      simp only [if_true]
      by_cases hx : s.run = BitVec.allOnes 3
      · rw [if_pos hx, if_pos (show (nrziPrelude raw s).run = _ from hx)]; exact ⟨rfl, rfl⟩
      · rw [if_neg hx, if_neg (show ¬ (nrziPrelude raw s).run = _ from hx)]; exact ⟨rfl, rfl⟩
  rw [dataState, flushByte_eq, takeBit_frame, h.1, h.2]; rfl

@[simp] theorem dataState_rawprev (raw : Bool) (s : State) :
    (dataState raw s).rawprev = raw := by rw [dataState_eq]; rfl
@[simp] theorem dataState_win (raw : Bool) (s : State) :
    (dataState raw s).win = shiftWindow s.win (s.decodedBit raw) := by rw [dataState_eq]; rfl
@[simp] theorem dataState_dstate (raw : Bool) (s : State) :
    (dataState raw s).dstate = s.dstate := by rw [dataState_eq]; rfl
@[simp] theorem dataState_sstate (raw : Bool) (s : State) :
    (dataState raw s).sstate = s.sstate := by rw [dataState_eq]; rfl
@[simp] theorem dataState_scount (raw : Bool) (s : State) :
    (dataState raw s).scount = s.scount := by rw [dataState_eq]; rfl
@[simp] theorem dataState_bitcnt (raw : Bool) (s : State) :
    (dataState raw s).bitcnt = inc s.params.counterOverflow s.bitcnt := by rw [dataState_eq]
@[simp] theorem dataState_run (raw : Bool) (s : State) :
    (dataState raw s).run = (trackRun (s.win.getLsbD 8) s).run := by rw [dataState_eq]
@[simp] theorem dataState_crc (raw : Bool) (s : State) :
    (dataState raw s).crc = crcStep s.crc (s.win.getLsbD 8) := by rw [dataState_eq]
@[simp] theorem dataState_byte (raw : Bool) (s : State) :
    (dataState raw s).byte = if s.bytecnt = 7#3 then 0x00#8 else shiftByte s.byte (s.win.getLsbD 8) := by rw [dataState_eq]
@[simp] theorem dataState_bytecnt (raw : Bool) (s : State) :
    (dataState raw s).bytecnt = if s.bytecnt = 7#3 then 0#3 else s.bytecnt + 1#3 := by rw [dataState_eq]
@[simp] theorem dataState_chan (raw : Bool) (s : State) :
    (dataState raw s).chan = s.chan := by rw [dataState_eq]; rfl
@[simp] theorem dataState_lasterr (raw : Bool) (s : State) :
    (dataState raw s).lasterr = s.lasterr := by rw [dataState_eq]; rfl
@[simp] theorem dataState_params (raw : Bool) (s : State) :
    (dataState raw s).params = s.params := by rw [dataState_eq]; rfl
@[simp] theorem dataState_stream (raw : Bool) (s : State) :
    (dataState raw s).stream = s.stream := by rw [dataState_eq]; rfl
@[simp] theorem dataState_events (raw : Bool) (s : State) :
    (dataState raw s).events = s.events ++ (if s.bytecnt = 7#3 then [.append (shiftByte s.byte (s.win.getLsbD 8))] else []) := by rw [dataState_eq]
@[simp] theorem dataState_results (raw : Bool) (s : State) :
    (dataState raw s).results = s.results := by rw [dataState_eq]; rfl
@[simp] theorem dataState_draws (raw : Bool) (s : State) :
    (dataState raw s).draws = (trackRun (s.win.getLsbD 8) s).draws := by rw [dataState_eq]

/-- The ways a command answers a next state. -/
inductive Effect (s : State) : Word → State → Prop
  | off (raw : Bool) (hd : s.dstate = .off) : Effect s (bitWord raw) (nrziPrelude raw s)
  | reset (raw : Bool) (hd : s.dstate = .reset) : Effect s (bitWord raw) (resetStep (nrziPrelude raw s))
  | timeout (raw : Bool) (hd : s.dstate = .waiting) (ht : s.sstate = .sreset)
      (h : (inc s.params.counterOverflow s.bitcnt).toNat > s.params.syncTimeout) :
      Effect s (bitWord raw) (exitToReset .syncTimeout (syncPrelude raw s))
  | startRun (raw : Bool) (hd : s.dstate = .waiting) (ht : s.sstate = .sreset)
      (h : (inc s.params.counterOverflow s.bitcnt).toNat ≤ s.params.syncTimeout) :
      Effect s (bitWord raw) { syncPrelude raw s with
        scount := 0#8, sstate := if s.rawprev = raw then .sawOne else .sawZero }
  | extendToOne (raw : Bool) (hd : s.dstate = .waiting) (ht : s.sstate = .sawZero) (hr : s.rawprev = raw) :
      Effect s (bitWord raw) { countRun (syncPrelude raw s) with sstate := .sawOne }
  | extendToZero (raw : Bool) (hd : s.dstate = .waiting) (ht : s.sstate = .sawOne) (hr : s.rawprev ≠ raw) :
      Effect s (bitWord raw) { countRun (syncPrelude raw s) with sstate := .sawZero }
  | enterFlagFromZero (raw : Bool) (hd : s.dstate = .waiting) (ht : s.sstate = .sawZero) (hr : s.rawprev ≠ raw)
      (h : s.scount.toNat > s.params.preambleMin) :
      Effect s (bitWord raw) { syncPrelude raw s with sstate := .inFlag, scount := 7#8 }
  | enterFlagFromOne (raw : Bool) (hd : s.dstate = .waiting) (ht : s.sstate = .sawOne) (hr : s.rawprev = raw)
      (h : s.scount.toNat > s.params.preambleMin) :
      Effect s (bitWord raw) { syncPrelude raw s with sstate := .inFlag, scount := 5#8 }
  | runTooShort (raw : Bool) (hd : s.dstate = .waiting)
      (ht : s.sstate = .sawZero ∧ s.rawprev ≠ raw ∨ s.sstate = .sawOne ∧ s.rawprev = raw)
      (h : s.scount.toNat ≤ s.params.preambleMin) :
      Effect s (bitWord raw) { syncPrelude raw s with sstate := .sreset }
  | flagBit (raw : Bool) (hd : s.dstate = .waiting) (ht : s.sstate = .inFlag) (hr : s.rawprev = raw)
      (h : (countFlagBit (syncPrelude raw s)).scount ≠ 0#8) : Effect s (bitWord raw) (countFlagBit (syncPrelude raw s))
  | flagBroken (raw : Bool) (hd : s.dstate = .waiting) (ht : s.sstate = .inFlag)
      (h : (countFlagBit (syncPrelude raw s)).scount ≠ 0#8 ∧ s.rawprev ≠ raw ∨
        (countFlagBit (syncPrelude raw s)).scount = 0#8 ∧ s.rawprev = raw) :
      Effect s (bitWord raw) { countFlagBit (syncPrelude raw s) with sstate := .sreset }
  | found (raw : Bool) (hd : s.dstate = .waiting) (ht : s.sstate = .inFlag) (hr : s.rawprev ≠ raw)
      (h : (countFlagBit (syncPrelude raw s)).scount = 0#8) :
      Effect s (bitWord raw) (syncFound (countFlagBit (syncPrelude raw s)))
  | prefetch (raw : Bool) (hd : s.dstate = .prefetch) (h : inc s.params.counterOverflow s.bitcnt ≠ 8#16) :
      Effect s (bitWord raw) (countBit (nrziPrelude raw s))
  | startFrame (raw : Bool) (hd : s.dstate = .prefetch) (h : inc s.params.counterOverflow s.bitcnt = 8#16) :
      Effect s (bitWord raw)
        { clearAssembler (countBit (nrziPrelude raw s)) with bitcnt := 0#16, dstate := .receiving }
  | stuffViolation (raw : Bool) (hd : s.dstate = .receiving) (hr : s.run = 5#3) (ha : s.win.getLsbD 8 = true) :
      Effect s (bitWord raw) (exitToReset .stuffBitViolation (nrziPrelude raw s))
  | stuffDropped (raw : Bool) (hd : s.dstate = .receiving) (hr : s.run = 5#3) (ha : s.win.getLsbD 8 = false)
      (hf : newestByte (nrziPrelude raw s).win ≠ Config.flag) :
      Effect s (bitWord raw) { nrziPrelude raw s with run := 0#3 }
  | stuffDroppedAtFlag (raw : Bool) (o : ExitOutcome) (hd : s.dstate = .receiving) (hr : s.run = 5#3)
      (ha : s.win.getLsbD 8 = false) (hf : newestByte (nrziPrelude raw s).win = Config.flag)
      (ho : o = .commit ∧ s.crc = Config.crcResidue ∨ o = .crcMismatch ∧ s.crc ≠ Config.crcResidue) :
      Effect s (bitWord raw) (exitToReset o { nrziPrelude raw s with run := 0#3 })
  | tooLong (raw : Bool) (hd : s.dstate = .receiving) (hr : s.run ≠ 5#3)
      (hb : (inc s.params.counterOverflow s.bitcnt).toNat > s.params.maxFrameBits) :
      Effect s (bitWord raw) (exitToReset .noEndFlag (dataState raw s))
  | dataBit (raw : Bool) (hd : s.dstate = .receiving) (hr : s.run ≠ 5#3)
      (hb : (inc s.params.counterOverflow s.bitcnt).toNat ≤ s.params.maxFrameBits)
      (hf : newestByte (nrziPrelude raw s).win ≠ Config.flag) : Effect s (bitWord raw) (dataState raw s)
  | dataBitAtFlag (raw : Bool) (o : ExitOutcome) (hd : s.dstate = .receiving) (hr : s.run ≠ 5#3)
      (hb : (inc s.params.counterOverflow s.bitcnt).toNat ≤ s.params.maxFrameBits)
      (hf : newestByte (nrziPrelude raw s).win = Config.flag)
      (ho : o = .commit ∧ crcStep s.crc (s.win.getLsbD 8) = Config.crcResidue ∨
        o = .crcMismatch ∧ crcStep s.crc (s.win.getLsbD 8) ≠ Config.crcResidue) :
      Effect s (bitWord raw) (exitToReset o (dataState raw s))
  | enableFromOff (hd : s.dstate = .off) : Effect s Control.enable.word { s with dstate := .reset }
  | enableElsewhere (hd : s.dstate ≠ .off) : Effect s Control.enable.word s
  | disable : Effect s Control.disable.word { s with dstate := .off }
  | readState : Effect s Control.readState.word (s.answer (.state s.dstate.code))
  | readError : Effect s Control.readError.word (s.answer (.error s.lasterr.code))

theorem execBitSyncReset_effect {raw : Bool} {s t : State} (hd : s.dstate = .waiting) (ht : s.sstate = .sreset)
    (h : execBitSyncReset raw s = .next t) : Effect s (bitWord raw) t := by
  unfold execBitSyncReset at h
  by_cases hb : (inc s.params.counterOverflow s.bitcnt).toNat > s.params.syncTimeout
  · simp only at h
    rw [if_pos (show SyncTimedOut (syncPrelude raw s).params (syncPrelude raw s).bitcnt from hb)] at h
    cases h; exact .timeout raw hd ht hb
  · simp only at h
    rw [if_neg (show ¬ SyncTimedOut (syncPrelude raw s).params (syncPrelude raw s).bitcnt from hb)] at h
    have e := Effect.startRun raw hd ht (Nat.not_lt.mp hb)
    by_cases hr : s.rawprev = raw
    · rw [decodedBit_of_eq hr] at h; rw [if_pos hr] at e; cases h; exact e
    · rw [decodedBit_of_ne hr] at h; rw [if_neg hr] at e; cases h; exact e

theorem execBitSyncSawZero_effect {raw : Bool} {s t : State} (hd : s.dstate = .waiting) (ht : s.sstate = .sawZero)
    (h : execBitSyncSawZero raw s = .next t) : Effect s (bitWord raw) t := by
  unfold execBitSyncSawZero at h
  by_cases hr : s.rawprev = raw
  · rw [decodedBit_of_eq hr] at h; cases h; exact .extendToOne raw hd ht hr
  · rw [decodedBit_of_ne hr] at h
    by_cases hb : s.scount.toNat > s.params.preambleMin
    · have e : repeatedBit Config.flagRemainSaw0 (syncPrelude raw s) = _ := if_pos hb
      simp only [e] at h; cases h; exact .enterFlagFromZero raw hd ht hr hb
    · have e : repeatedBit Config.flagRemainSaw0 (syncPrelude raw s) = _ := if_neg hb
      simp only [e] at h; cases h; exact .runTooShort raw hd (.inl ⟨ht, hr⟩) (Nat.not_lt.mp hb)

theorem execBitSyncSawOne_effect {raw : Bool} {s t : State} (hd : s.dstate = .waiting) (ht : s.sstate = .sawOne)
    (h : execBitSyncSawOne raw s = .next t) : Effect s (bitWord raw) t := by
  unfold execBitSyncSawOne at h
  by_cases hr : s.rawprev = raw
  · rw [decodedBit_of_eq hr] at h
    by_cases hb : s.scount.toNat > s.params.preambleMin
    · have e : repeatedBit Config.flagRemainSaw1 (syncPrelude raw s) = _ := if_pos hb
      simp only [e] at h; cases h; exact .enterFlagFromOne raw hd ht hr hb
    · have e : repeatedBit Config.flagRemainSaw1 (syncPrelude raw s) = _ := if_neg hb
      simp only [e] at h; cases h; exact .runTooShort raw hd (.inr ⟨ht, hr⟩) (Nat.not_lt.mp hb)
  · rw [decodedBit_of_ne hr] at h; cases h; exact .extendToZero raw hd ht hr

theorem execBitSyncInFlag_effect {raw : Bool} {s t : State} (hd : s.dstate = .waiting) (ht : s.sstate = .inFlag)
    (h : execBitSyncInFlag raw s = .next t) : Effect s (bitWord raw) t := by
  unfold execBitSyncInFlag at h
  by_cases hz : (countFlagBit (syncPrelude raw s)).scount = 0#8
  · simp only at h; rw [if_neg (by simp [hz])] at h
    by_cases hr : s.rawprev = raw
    · rw [decodedBit_of_eq hr] at h; cases h; exact .flagBroken raw hd ht (.inr ⟨hz, hr⟩)
    · rw [decodedBit_of_ne hr] at h; cases h; exact .found raw hd ht hr hz
  · simp only at h; rw [if_pos hz] at h
    by_cases hr : s.rawprev = raw
    · rw [decodedBit_of_eq hr] at h; cases h; exact .flagBit raw hd ht hr hz
    · rw [decodedBit_of_ne hr] at h; cases h; exact .flagBroken raw hd ht (.inl ⟨hz, hr⟩)

theorem execBitPrefetch_effect {raw : Bool} {s t : State} (hd : s.dstate = .prefetch)
    (h : execBitPrefetch raw s = .next t) : Effect s (bitWord raw) t := by
  unfold execBitPrefetch at h
  by_cases hz : inc s.params.counterOverflow s.bitcnt = 8#16
  · simp only at h; rw [if_pos (by exact hz)] at h; cases h; exact .startFrame raw hd hz
  · simp only at h; rw [if_neg (by exact hz)] at h; cases h; exact .prefetch raw hd hz

theorem execBitReceive_effect {raw : Bool} {s t : State} (hd : s.dstate = .receiving)
    (h : execBitReceive raw s = .next t) : Effect s (bitWord raw) t := by
  have hb : (dataState raw s).bitcnt = inc s.params.counterOverflow s.bitcnt := by rw [dataState_eq]
  have hw : (dataState raw s).win = (nrziPrelude raw s).win := by rw [dataState_eq]
  have hcrc : (dataState raw s).crc = crcStep s.crc (s.win.getLsbD 8) := by rw [dataState_eq]
  rcases execBitReceive_cases raw s with ⟨hr, ha, e⟩ | ⟨hr, ha, e⟩ | ⟨hr, hl, e⟩ | ⟨hr, hl, e⟩ <;> rw [e] at h <;> cases h
  · exact .stuffViolation raw hd hr ha
  · rcases endFlagTest_cases { nrziPrelude raw s with run := 0#3 } with ⟨hf, e⟩ | ⟨hf, hc, e⟩ | ⟨hf, hc, e⟩ <;> rw [e]
    · exact .stuffDropped raw hd hr ha hf
    · exact .stuffDroppedAtFlag raw _ hd hr ha hf (.inl ⟨rfl, hc⟩)
    · exact .stuffDroppedAtFlag raw _ hd hr ha hf (.inr ⟨rfl, hc⟩)
  · rw [show countBit (flushByte (takeBit (s.win.getLsbD 8) (nrziPrelude raw s))) = dataState raw s from rfl, hb] at hl
    exact .tooLong raw hd hr hl
  · rw [show countBit (flushByte (takeBit (s.win.getLsbD 8) (nrziPrelude raw s))) = dataState raw s from rfl] at hl ⊢
    rw [hb] at hl
    rcases endFlagTest_cases (dataState raw s) with ⟨hf, e⟩ | ⟨hf, hc, e⟩ | ⟨hf, hc, e⟩ <;> rw [e] <;> rw [hw] at hf
    · exact .dataBit raw hd hr hl hf
    · rw [hcrc] at hc; exact .dataBitAtFlag raw _ hd hr hl hf (.inl ⟨rfl, hc⟩)
    · rw [hcrc] at hc; exact .dataBitAtFlag raw _ hd hr hl hf (.inr ⟨rfl, hc⟩)

/-- Every command that answers a next state does so in one of the ways of `Effect`. -/
theorem command_effect {w : Word} {s t : State} (h : command w s = .next t) : Effect s w t := by
  rcases command_cases w s with ⟨raw, rfl, hc⟩ | ⟨rfl, hc⟩ | ⟨rfl, hc⟩ | ⟨rfl, hc⟩ | ⟨rfl, hc⟩ | ⟨_, hc⟩
  · rcases hc with ⟨hd, hc⟩ | ⟨hd, hc⟩ | ⟨hd, ht, hc⟩ | ⟨hd, ht, hc⟩ | ⟨hd, ht, hc⟩ | ⟨hd, ht, hc⟩ | ⟨hd, hc⟩ | ⟨hd, hc⟩ |
      ⟨_, hc⟩ <;> rw [hc] at h
    · cases h; exact .off raw hd
    · cases h; exact .reset raw hd
    · exact execBitSyncReset_effect hd ht h
    · exact execBitSyncSawZero_effect hd ht h
    · exact execBitSyncSawOne_effect hd ht h
    · exact execBitSyncInFlag_effect hd ht h
    · exact execBitPrefetch_effect hd h
    · exact execBitReceive_effect hd h
    · cases h
  · rw [hc, execEnable] at h
    split at h <;> cases h
    · exact .enableFromOff ‹_›
    · exact .enableElsewhere ‹_›
  · rw [hc] at h; cases h; exact .disable
  · rw [hc] at h; cases h; exact .readState
  · rw [hc] at h; cases h; exact .readError
  · rw [hc] at h; cases h

end Sys2Proof.Machine
end

