-- ==== Sys2Proof/Laws/Outputs.lean ====
section
/-! SUPPORT. What one command does to the outputs, said once: it is silent, opens a packet, appends a byte, or ends an attempt. -/

namespace Sys2Proof.Machine

/-- The ways a command touches the outputs, CHAN and LASTERR. -/
inductive OutputEffect (s : State) (w : Word) (t : State) : Prop
  | silent (he : t.events = s.events) (hc : t.chan = s.chan) (hl : t.lasterr = s.lasterr)
  | opened (hd : s.dstate = .reset) (hw : isBitWord w = true) (hd' : t.dstate = .waiting)
      (he : t.events = s.events ++ [.beginPacket s.chan]) (hc : t.chan = s.chan) (hl : t.lasterr = s.lasterr)
  | appended (b : Byte) (hd : s.dstate = .receiving) (hw : isBitWord w = true) (hd' : t.dstate = .receiving)
      (he : t.events = s.events ++ [.append b]) (hc : t.chan = s.chan) (hl : t.lasterr = s.lasterr)
  | ended (o : ExitOutcome) (pre : List Event) (hw : isBitWord w = true) (hd' : t.dstate = .reset)
      (hd : o = .syncTimeout ∧ s.dstate = .waiting ∧ pre = [] ∨ o ≠ .syncTimeout ∧ s.dstate = .receiving)
      (hp : pre = [] ∨ ∃ b, pre = [.append b])
      (he : t.events = s.events ++ pre ++ [packetEvent o, .hop (!s.chan)]) (hc : t.chan = !s.chan)
      (hl : t.lasterr = (recordedError o).getD s.lasterr)

/-- Every command that answers a next state touches the outputs in one of the ways of `OutputEffect`. -/
theorem command_outputs {w : Word} {s t : State} (h : command w s = .next t) : OutputEffect s w t := by
  have pre : ∀ l, l = (if s.bytecnt = 7#3 then [Event.append (shiftByte s.byte (s.win.getLsbD 8))] else []) →
      l = [] ∨ ∃ b, l = [.append b] := by
    rintro l rfl; split
    · exact .inr ⟨_, rfl⟩
    · exact .inl rfl
  cases command_effect h with
  | off raw hd => exact .silent rfl rfl rfl
  | reset raw hd => exact .opened hd (isBitWord_bitWord raw) rfl rfl rfl rfl
  | timeout raw hd => exact .ended .syncTimeout [] (isBitWord_bitWord raw) rfl (.inl ⟨rfl, hd, rfl⟩) (.inl rfl) (by simp) rfl rfl
  | startRun raw => exact .silent rfl rfl rfl
  | extendToOne raw => exact .silent rfl rfl rfl
  | extendToZero raw => exact .silent rfl rfl rfl
  | enterFlagFromZero raw => exact .silent rfl rfl rfl
  | enterFlagFromOne raw => exact .silent rfl rfl rfl
  | runTooShort raw => exact .silent rfl rfl rfl
  | flagBit raw => exact .silent (by simp) (by simp) (by simp)
  | flagBroken raw => exact .silent (by simp) (by simp) (by simp)
  | found raw => exact .silent (by simp) (by simp) (by simp)
  | prefetch raw => exact .silent (by simp) (by simp) (by simp)
  | startFrame raw => exact .silent (by simp) (by simp) (by simp)
  | stuffViolation raw hd =>
    exact .ended .stuffBitViolation [] (isBitWord_bitWord raw) rfl (.inr ⟨by decide, hd⟩) (.inl rfl) (by simp) rfl rfl
  | stuffDropped raw => exact .silent rfl rfl rfl
  | stuffDroppedAtFlag raw o hd _ _ _ ho =>
    exact .ended o [] (isBitWord_bitWord raw) rfl (.inr ⟨by rcases ho with ⟨rfl, _⟩ | ⟨rfl, _⟩ <;> decide, hd⟩) (.inl rfl)
      (by simp) rfl rfl
  | tooLong raw hd =>
    exact .ended .noEndFlag _ (isBitWord_bitWord raw) rfl (.inr ⟨by decide, hd⟩) (pre _ rfl) (by simp) (by simp) (by simp)
  | dataBit raw hd =>
    by_cases hb : s.bytecnt = 7#3
    · exact .appended _ hd (isBitWord_bitWord raw) (by simp [hd])
        (by rw [dataState_events, if_pos hb]) (by simp) (by simp)
    · exact .silent (by simp [hb]) (by simp) (by simp)
  | dataBitAtFlag raw o hd _ _ _ ho =>
    exact .ended o _ (isBitWord_bitWord raw) rfl (.inr ⟨by rcases ho with ⟨rfl, _⟩ | ⟨rfl, _⟩ <;> decide, hd⟩) (pre _ rfl)
      (by simp) (by simp) (by simp)
  | enableFromOff => exact .silent rfl rfl rfl
  | enableElsewhere => exact .silent rfl rfl rfl
  | disable => exact .silent rfl rfl rfl
  | readState => exact .silent rfl rfl rfl
  | readError => exact .silent rfl rfl rfl

end Sys2Proof.Machine
end

