-- ==== Sys2Proof/Laws/PerInstr.lean ====
section
/-! SUPPORT. Facts of each instruction as syntax, one lemma per constructor. -/

namespace Sys2Proof.Laws.KeyInRow

/-- The row of the opcode table an instruction names applies to its key, and the key carries its command word, whatever
the don't-care bits hold (30_encoding.md R74). -/
def Statement (i : Instr) : Prop :=
  ∀ fill : Key, i.row.applies (encodeWith i fill) = true ∧ (encodeWith i fill).extractLsb' 0 3 = i.word

/-- Enough for the statement, with no don't-care bits left in it. -/
theorem of_fixed_bits {i : Instr} (h1 : (i.row.pattern ||| i.word.setWidth 8) &&& i.row.mask = i.row.pattern)
    (h2 : i.dontCare &&& i.row.mask = 0#8) (h3 : (i.row.pattern ||| i.word.setWidth 8).extractLsb' 0 3 = i.word)
    (h4 : i.dontCare.extractLsb' 0 3 = 0#3) : Statement i := by
  intro fill
  constructor
  · rw [OpcodeRow.applies, encodeWith, BitVec.and_comm, BitVec.and_or_distrib_left, BitVec.and_comm, h1, BitVec.and_comm _ (fill &&& _),
      BitVec.and_assoc, h2]
    simp
  · rw [encodeWith, BitVec.extractLsb'_or, h3, BitVec.extractLsb'_and, h4]
    simp

theorem bitOff (raw : Bool) : Statement (.bitOff raw) := by
  cases raw <;> exact of_fixed_bits (by decide) (by decide) (by decide) (by decide)
theorem bitReset (raw : Bool) : Statement (.bitReset raw) := by
  cases raw <;> exact of_fixed_bits (by decide) (by decide) (by decide) (by decide)
theorem bitSyncReset (raw : Bool) : Statement (.bitSyncReset raw) := by
  cases raw <;> exact of_fixed_bits (by decide) (by decide) (by decide) (by decide)
theorem bitSyncSawZero (raw : Bool) : Statement (.bitSyncSawZero raw) := by
  cases raw <;> exact of_fixed_bits (by decide) (by decide) (by decide) (by decide)
theorem bitSyncSawOne (raw : Bool) : Statement (.bitSyncSawOne raw) := by
  cases raw <;> exact of_fixed_bits (by decide) (by decide) (by decide) (by decide)
theorem bitSyncInFlag (raw : Bool) : Statement (.bitSyncInFlag raw) := by
  cases raw <;> exact of_fixed_bits (by decide) (by decide) (by decide) (by decide)
theorem bitPrefetch (raw : Bool) : Statement (.bitPrefetch raw) := by
  cases raw <;> exact of_fixed_bits (by decide) (by decide) (by decide) (by decide)
theorem bitReceive (raw : Bool) : Statement (.bitReceive raw) := by
  cases raw <;> exact of_fixed_bits (by decide) (by decide) (by decide) (by decide)
theorem enable : Statement .enable :=
  of_fixed_bits (by decide) (by decide) (by decide) (by decide)
theorem disable : Statement .disable :=
  of_fixed_bits (by decide) (by decide) (by decide) (by decide)
theorem readState : Statement .readState :=
  of_fixed_bits (by decide) (by decide) (by decide) (by decide)
theorem readError : Statement .readError :=
  of_fixed_bits (by decide) (by decide) (by decide) (by decide)

end Sys2Proof.Laws.KeyInRow
end

