-- ==== Sys2Proof/Tests/Slice0.lean ====
section
/-! SUPPORT. Tests: expected values are those of spec/95_test_vectors.md (V<n>, P<n>, S<n>) and of the rules named; then, for each obligation with hypotheses, a state and operands that meet them. -/

open Sys2Proof Sys2Proof.Machine

namespace Sys2Proof.Tests

/-- What `f` reads in the next state, where there is one. -/
def look {α : Type} (f : State → α) : StepResult → Option α
  | .next s => some (f s)
  | .fault _ => none
  | .refused _ => none

/-- WAITING in sub-state `t`, with SCOUNT and BITCNT. RAWPREV is 0, so raw bit 0 decodes to 1 and raw bit 1 to 0. -/
def waiting (t : SState) (scount : BitVec 8) (bitcnt : BitVec 16) : State :=
  { State.reset with dstate := .waiting, sstate := t, scount := scount, bitcnt := bitcnt }

/-- RECEIVING, with WIN, RUN, BYTE, BYTECNT, CRC and BITCNT. -/
def receiving (rawprev : Bool) (win : BitVec 16) (run : BitVec 3) (byte : Byte) (bytecnt : BitVec 3) (crc : BitVec 16)
    (bitcnt : BitVec 16) : State :=
  { State.reset with
    dstate := .receiving, rawprev := rawprev, win := win, run := run, byte := byte, bytecnt := bytecnt, crc := crc,
    bitcnt := bitcnt }

/-- V18's state before the command, with its open packet's events before it (P1 command 72). -/
def beforeCommit : State :=
  { receiving true 0xFC6B#16 0#3 0x6A#8 7#3 0xE961#16 31#16 with
    events := [.beginPacket false, .append 0x01#8, .append 0x02#8, .append 0x8D#8] }

/-! ### Ill-formed terms are refused -/

theorem test_word_110_is_ill_formed : Word.wf 0b110#3 = false := by decide
theorem test_word_111_is_ill_formed : Word.wf 0b111#3 = false := by decide
theorem test_assigned_words_are_well_formed : [0b000#3, 0b001#3, 0b010#3, 0b011#3, 0b100#3, 0b101#3].all Word.wf = true := by decide
theorem test_issue_of_a_reserved_word_is_ill_formed : Issue.wf (.word 0b111#3) = false := by decide
theorem test_stream_with_a_reserved_word_is_ill_formed :
    streamWf [.word 0b010#3, .concurrent [true] [.disable], .word 0b110#3] = false := by decide
theorem test_timeout_beyond_its_counter_is_ill_formed : Params.wf { syncTimeout := 65535 } = false := by decide
theorem test_preamble_beyond_its_counter_is_ill_formed : Params.wf { preambleMin := 255 } = false := by decide
theorem test_frame_beyond_its_counter_is_ill_formed : Params.wf { maxFrameBits := 65535 } = false := by decide
theorem test_default_parameters_are_well_formed : Params.default.wf = true := by decide

/-! ### Decoding: a key written out from 30_encoding.md R71 and R74 for each row, `DSTATE SSTATE cmd` -/

theorem test_decode_bitOff : decode 0b00011001#8 = .ok (.bitOff true) := by decide
theorem test_decode_bitReset : decode 0b00110000#8 = .ok (.bitReset false) := by decide
theorem test_decode_bitSyncReset : decode 0b01000000#8 = .ok (.bitSyncReset false) := by decide
theorem test_decode_bitSyncSawZero : decode 0b01001001#8 = .ok (.bitSyncSawZero true) := by decide
theorem test_decode_bitSyncSawOne : decode 0b01010000#8 = .ok (.bitSyncSawOne false) := by decide
theorem test_decode_bitSyncInFlag : decode 0b01011001#8 = .ok (.bitSyncInFlag true) := by decide
theorem test_decode_bitPrefetch : decode 0b01100000#8 = .ok (.bitPrefetch false) := by decide
theorem test_decode_bitReceive : decode 0b10011001#8 = .ok (.bitReceive true) := by decide
theorem test_decode_enable : decode 0b01001010#8 = .ok .enable := by decide
theorem test_decode_disable : decode 0b00000011#8 = .ok .disable := by decide
theorem test_decode_readState : decode 0b10110100#8 = .ok .readState := by decide
theorem test_decode_readError : decode 0b01110101#8 = .ok .readError := by decide
theorem test_decode_reserved : decode 0b00000111#8 = .error (.reservedCommand 0b111#3) := by decide
theorem test_decode_bit_in_code_7 : decode 0b11111001#8 = .error (.bitInUnassignedState .unassigned7) := by decide
theorem test_table_word_of_sync_sawone : decodeTableWord 8 0x50 = some (.bitSyncSawOne false) := by decide
theorem test_table_word_above_the_key_is_refused : decodeTableWord 16 0x150 = none := by decide
theorem test_encode_sync_inflag : encode (.bitSyncInFlag true) = 0x59#8 := by decide
theorem test_placed_word_runs_first :
    look (fun s => (s.sstate, s.scount)) (step (State.reset.withFetchWord 8 0x50)) = some (.sreset, 0#8) := by decide

/-- 30_encoding.md R78's codes; 95_test_vectors.md gives APPEND(0x35) and HOP(1). -/
theorem test_event_words : (Event.append 0x35#8).word = 0b01000110101#11 ∧ (Event.hop true).word = 0b10100000001#11 := by
  decide
theorem test_event_kind_110_is_no_event : Event.ofWord 0b11000000000#11 = none := by decide

/-! ### One command -/

/-- V36, row 6: BIT 1 in OFF after BIT 0. (V3's WIN is not what R103 gives from the power-on WIN, log entry 20.) -/
theorem test_bitOff_V36 : look (fun s => (s.rawprev, s.win, s.events))
    (exec (.bitOff true) { State.reset with win := 0x8000#16 }) = some (true, 0x4000#16, []) := by decide

/-- V13: the Reset step of P1. -/
theorem test_bitReset_V13 : look (fun s => (s.win, s.dstate, s.events))
    (exec (.bitReset false) { State.reset with dstate := .reset }) = some (0x8000#16, .waiting, [.beginPacket false]) := by decide

/-- V14: the Reset step after a commit clears BITCNT and reseeds CRC. -/
theorem test_bitReset_V14 : look (fun s => (s.win, s.bitcnt, s.crc))
    (exec (.bitReset false)
      { State.reset with dstate := .reset, win := 0x7E35#16, bitcnt := 32#16, crc := 0xF0B8#16, chan := true }) =
    some (0x8000#16, 0#16, 0xFFFF#16) := by decide

/-- V5, row 3: 16 is not beyond the timeout. -/
theorem test_bitSyncReset_V5_at_16 : look (fun s => (s.dstate, s.sstate, s.bitcnt))
    (exec (.bitSyncReset false) (waiting .sreset 0#8 15#16)) = some (.waiting, .sawOne, 16#16) := by decide

/-- V5, row 4: the timeout. -/
theorem test_bitSyncReset_V5_at_17 : look (fun s => (s.dstate, s.chan, s.events))
    (exec (.bitSyncReset true) (waiting .sreset 0#8 16#16)) = some (.reset, true, [.discard, .hop true]) := by decide

/-- V6, row 3. -/
theorem test_bitSyncSawZero_V6_enter : look (fun s => (s.sstate, s.scount))
    (exec (.bitSyncSawZero true) (waiting .sawZero 9#8 10#16)) = some (.inFlag, 7#8) := by decide

/-- V6, row 4. -/
theorem test_bitSyncSawZero_V6_restart : look (fun s => (s.sstate, s.scount))
    (exec (.bitSyncSawZero true) (waiting .sawZero 8#8 9#16)) = some (.sreset, 8#8) := by decide

/-- V7, row 3. -/
theorem test_bitSyncSawOne_V7_enter : look (fun s => (s.sstate, s.scount))
    (exec (.bitSyncSawOne false) (waiting .sawOne 9#8 10#16)) = some (.inFlag, 5#8) := by decide

/-- V7, row 1. -/
theorem test_bitSyncSawOne_V7_extend : look (fun s => (s.sstate, s.scount))
    (exec (.bitSyncSawOne true) (waiting .sawOne 2#8 3#16)) = some (.sawZero, 3#8) := by decide

/-- V8, row 2. -/
theorem test_bitSyncInFlag_V8_broken : look (fun s => (s.sstate, s.scount))
    (exec (.bitSyncInFlag true) (waiting .inFlag 4#8 28#16)) = some (.sreset, 3#8) := by decide

/-- V8, row 4. -/
theorem test_bitSyncInFlag_V8_found : look (fun s => (s.dstate, s.bitcnt))
    (exec (.bitSyncInFlag true) (waiting .inFlag 1#8 31#16)) = some (.prefetch, 0#16) := by decide

/-- V15: P1 command 40, the exit (BIT 1 after raw 0). -/
theorem test_bitPrefetch_V15_exit : look (fun s => (s.win, s.dstate, s.bitcnt))
    (exec (.bitPrefetch true) { State.reset with dstate := .prefetch, win := 0x02FD#16, bitcnt := 7#16 }) =
    some (0x017E#16, .receiving, 0#16) := by decide

/-- At its maximum BITCNT follows COUNTER_OVERFLOW in PREFETCH too (10_state.md R28, R37). -/
theorem test_bitPrefetch_overflow :
    look (fun s => (s.dstate, s.bitcnt)) (exec (.bitPrefetch false) { State.reset with dstate := .prefetch, bitcnt := 0xFFFF#16 }) =
      some (.prefetch, 0xFFFF#16) ∧
    look (fun s => (s.dstate, s.bitcnt)) (exec (.bitPrefetch false)
      { State.reset with dstate := .prefetch, bitcnt := 0xFFFF#16, params := { counterOverflow := .wrap } }) =
      some (.prefetch, 0#16) := by decide

/-- V16: P1 command 41. -/
theorem test_bitReceive_V16 : look (fun s => (s.win, s.run, s.crc, s.byte, s.bytecnt, s.bitcnt))
    (exec (.bitReceive false) (receiving true 0x017E#16 0#3 0x00#8 0#3 0xFFFF#16 0#16)) =
    some (0x00BF#16, 1#3, 0x7FFF#16, 0x80#8, 1#3, 1#16) := by decide

/-- V18: P1 command 72. -/
theorem test_bitReceive_V18 : look (fun s => (s.win, s.crc, s.chan, s.dstate, s.events.drop 4))
    (exec (.bitReceive false) beforeCommit) =
    some (0x7E35#16, 0xF0B8#16, true, .reset, [.append 0x35#8, .commit, .hop true]) := by decide

/-- V36: ENABLE at power-on. -/
theorem test_enable_V36 : look (fun s => (s.dstate, s.events)) (exec .enable State.reset) = some (.reset, []) := by decide

/-- V36: ENABLE in WAITING does nothing. -/
theorem test_enable_V36_waiting : exec .enable (waiting .sawOne 3#8 4#16) = .next (waiting .sawOne 3#8 4#16) := by rfl

/-- V36: DISABLE in WAITING. -/
theorem test_disable_V36 : look (fun s => (s.dstate, s.sstate, s.events)) (exec .disable (waiting .sawOne 3#8 4#16)) =
    some (.off, .sawOne, []) := by decide

/-- P1's last reads: READ_STATE returns 2. -/
theorem test_readState_P1 : look (fun s => s.results) (exec .readState (waiting .sawOne 0#8 3#16)) = some [.state 2#3] := by
  decide

/-- V40: READ_ERROR returns 3 after a CrcMismatch. -/
theorem test_readError_V40 : look (fun s => s.results) (exec .readError { State.reset with lasterr := .errCrc }) =
    some [.error 3#2] := by decide

/-- V39: the refused inputs. -/
theorem test_reserved_word_V39 : command 0b110#3 State.reset = .refused (.reservedCommand 0b110#3) := by rfl
theorem test_bit_in_code_5_V39 : command (bitWord true) { State.reset with dstate := .unassigned5 } =
    .refused (.bitInUnassignedState .unassigned5) := by rfl

/-! ### CRC, the assembler lines, the sink -/

/-- V33 and 44_crc.md R197: the CRC register after byte 01. -/
theorem test_crc_of_byte_01 : crcByte 0xFFFF#16 0x01#8 = 0x1E0E#16 := by decide

/-- V30: the FCS of the empty payload. -/
theorem test_fcs_of_nothing : fcsBytes [] = [0x00#8, 0x00#8] := by decide

/-- V25: a 0 follows five 1s at the end of the data. -/
theorem test_stuffing_at_the_end_V25 : stuffFrom 0 (byteBits 0xFB#8) =
    [true, true, false, true, true, true, true, true, false] := by decide

/-- P1's first lines: `010` for ENABLE, then BIT 0 for a logical 1 from level 0. -/
theorem test_lines_of_P1 : (parseProgram "enable ; 010\nLBITS \"1\"\n\nREAD_ERROR".toList).map assemble =
    some [0b010#3, 0b000#3, 0b101#3] := by decide

/-- R81: PREAMBLE 4,0 from level 0 is logical 0 1 0 1, raw 1 1 0 0; LEVEL sets the level. -/
theorem test_preamble_lines : (parseProgram "PREAMBLE 4,0\nLEVEL 1\nLBITS \"1 0\"".toList).map assemble =
    some [0b001#3, 0b001#3, 0b000#3, 0b000#3, 0b001#3, 0b000#3] := by decide

/-- V37 and R57: BEGIN drops the open packet; COMMIT after DISCARD has no packet. -/
theorem test_sink_begin_drops : Sink.empty.acceptAll [.beginPacket false, .append 0x01#8, .beginPacket true, .commit] =
    some ⟨[⟨true, []⟩], none⟩ := by decide
theorem test_sink_commit_with_none_open : Sink.empty.acceptAll [.beginPacket false, .discard, .commit] = none := by decide

/-- 70_reset_and_hazards.md R230: the reset input loads the power-on registers. -/
theorem test_load_power_on : (beforeCommit.loadPowerOn).dstate = .off ∧ (beforeCommit.loadPowerOn).events = beforeCommit.events := by
  decide

/-! ### Witnesses: hypotheses of the obligations met together, each clause at a boundary value -/

/-- PowerOnGivesEveryRegisterItsValue: the other INITIAL_CHAN. -/
theorem witness_power_on : (∃ p is es rs n, State.powerOn { initialChan := true } [] [] [] 0 = State.powerOn p is es rs n) ∧
    (State.powerOn { initialChan := true } [] [] [] 0).chan = true := ⟨⟨_, _, _, _, _, rfl⟩, rfl⟩

/-- EveryDecodedKeyIsAnEncodingOfItsInstruction: a key with don't-care bits set. -/
theorem witness_decoded_key : decode 0b11111010#8 = .ok .enable := by decide

/-- ExactlyOneOpcodeRowAppliesToEachLegalKey: op 00 in DSTATE 4, a control op in DSTATE 7, op 11, op 00 in DSTATE 5. -/
theorem witness_rows :
    ((0b10011001#8).extractLsb' 1 2 = 0#2 ∧ ((0b10011001#8).extractLsb' 5 3).toNat = 4 ∧ decode 0b10011001#8 = .ok (.bitReceive true)) ∧
    ((0b11111011#8).extractLsb' 1 2 = 1#2 ∧ decode 0b11111011#8 = .ok .disable) ∧
    (0b00000110#8).extractLsb' 1 2 = 3#2 ∧
    ((0b10100000#8).extractLsb' 1 2 = 0#2 ∧ ((0b10100000#8).extractLsb' 5 3).toNat = 5) := by decide

/-- EventWordsRoundTripAndSkipUnusedKinds: APPEND of the largest byte. -/
theorem witness_event_word : Event.ofWord 0b01011111111#11 = some (.append 0xFF#8) := by decide

/-- StepRunsTheDecodedInstruction, each stream shape. -/
theorem witness_step_word : ({ State.reset with stream := [.word 0b010#3] } : State).stream = .word 0b010#3 :: [] ∧
    decode (dispatchKey .off .sreset 0b010#3) = .ok .enable := by decide
theorem witness_step_concurrent :
    ({ State.reset with stream := [.concurrent [true] [.enable]] } : State).stream = .concurrent (true :: []) (.enable :: []) :: [] ∧
    ({ State.reset with stream := [.concurrent [true] []] } : State).stream = .concurrent (true :: []) [] :: [] ∧
    ({ State.reset with stream := [.concurrent [] [.enable]] } : State).stream = .concurrent [] (.enable :: []) :: [] ∧
    ({ State.reset with stream := [.concurrent [] []] } : State).stream = .concurrent [] [] :: [] ∧ State.reset.stream = [] := by
  decide

/-- BitDispatchesOnTheStateThePreviousCommandLeft: a state for each clause; code 5 is the first unassigned one. -/
theorem witness_bit_dispatch :
    State.reset.dstate = .off ∧ ({ State.reset with dstate := .reset } : State).dstate = .reset ∧
    ((waiting .sreset 0#8 0#16).dstate = .waiting ∧ (waiting .sreset 0#8 0#16).sstate = .sreset) ∧
    ((waiting .sawZero 0#8 0#16).dstate = .waiting ∧ (waiting .sawZero 0#8 0#16).sstate = .sawZero) ∧
    ((waiting .sawOne 0#8 0#16).dstate = .waiting ∧ (waiting .sawOne 0#8 0#16).sstate = .sawOne) ∧
    ((waiting .inFlag 1#8 0#16).dstate = .waiting ∧ (waiting .inFlag 1#8 0#16).sstate = .inFlag) ∧
    ({ State.reset with dstate := .prefetch } : State).dstate = .prefetch ∧
    (receiving false 0#16 0#3 0#8 0#3 0#16 0#16).dstate = .receiving ∧
    5 ≤ ({ State.reset with dstate := .unassigned5 } : State).dstate.code.toNat := by decide

/-- ReservedWordsAreRefusedInEveryState and UnassignedStatesRefuseBitAndAnswerTheControlSurface. -/
theorem witness_reserved : ((0b110#3 : Word) = 0b110#3 ∨ (0b110#3 : Word) = 0b111#3) ∧
    ((0b111#3 : Word) = 0b110#3 ∨ (0b111#3 : Word) = 0b111#3) := by decide
theorem witness_unassigned : 5 ≤ ({ State.reset with dstate := .unassigned5 } : State).dstate.code.toNat ∧
    5 ≤ ({ State.reset with dstate := .unassigned7 } : State).dstate.code.toNat := by decide

/-- The obligations about one command that answers next (EveryBitCommandAndNoOtherWritesRawprev,
EveryBitCommandShiftsTheWindow, OneCommandEmitsOneOfTheSevenEventLists, ChannelFlipsExactlyWithHop,
LastErrorIsWrittenOnlyByAFrameError): a BIT command, one in RESET, and a control command. -/
theorem witness_command_next : (isBitWord (bitWord true) = true ∧ ∃ t, command (bitWord true) beforeCommit = .next t) ∧
    (isBitWord (bitWord true) = true ∧ ∃ t, command (bitWord true) { State.reset with dstate := .reset } = .next t) ∧
    (isBitWord Control.disable.word = false ∧ ∃ t, command Control.disable.word beforeCommit = .next t) :=
  ⟨⟨rfl, _, rfl⟩, ⟨rfl, _, rfl⟩, ⟨rfl, _, rfl⟩⟩

/-- WindowHoldsTheNewestBitsInTimeOrder: sixteen bits and the last of them; the flag's eight. -/
theorem witness_window : (List.replicate 16 true).length ≤ 16 ∧ 15 < (List.replicate 16 true).length ∧ flagBits.length = 8 := by
  decide

/-- OffOnlyTracksTheLine. -/
theorem witness_off : State.reset.dstate = .off := by decide

/-- PrefetchCountsEightBitsThenStartsReceiving: the eighth bit, the seventh, the ninth, and both ends of the plain + 1. -/
theorem witness_prefetch : (7#16).toNat = 7 ∧ (6#16).toNat ≠ 7 ∧ (8#16).toNat ≠ 7 ∧ (65534#16).toNat < 65535 ∧
    (65535#16).toNat ≠ 7 := by decide

/-- EnableLeavesOffAndOtherwiseDoesNothing and ReadsReturnTheCodesAndChangeNothing. -/
theorem witness_enable : State.reset.dstate = .off ∧ beforeCommit.dstate ≠ .off := by decide
theorem witness_reads : State.reset.dstate = .off ∧ ({ State.reset with dstate := .reset } : State).dstate = .reset ∧
    (waiting .inFlag 1#8 0#16).dstate = .waiting ∧ ({ State.reset with dstate := .prefetch } : State).dstate = .prefetch ∧
    beforeCommit.dstate = .receiving ∧ beforeCommit.lasterr = .errNone ∧
    ({ State.reset with lasterr := .errStuff } : State).lasterr = .errStuff ∧
    ({ State.reset with lasterr := .errNoend } : State).lasterr = .errNoend ∧
    ({ State.reset with lasterr := .errCrc } : State).lasterr = .errCrc := by decide

/-- DisableThenEnableDropsTheOpenPacket: an open packet of three bytes. -/
theorem witness_open_packet : beforeCommit.sink = some ⟨[], some ⟨false, [0x01#8, 0x02#8, 0x8D#8]⟩⟩ := by decide

/-- IncSaturatesOrWrapsAtTheMaximum: one below the maximum of SCOUNT, the maximum, and no width at all. -/
theorem witness_inc : (254#8).toNat < 2 ^ 8 - 1 ∧ (255#8).toNat = 2 ^ 8 - 1 ∧ (0#0).toNat = 2 ^ 0 - 1 := by decide

/-- SyncResetTimesOutOrStartsARun: on either side of the timeout. -/
theorem witness_sync_reset :
    (inc .saturate (waiting .sreset 0#8 16#16).bitcnt).toNat > Params.default.syncTimeout ∧
    (inc .saturate (waiting .sreset 0#8 15#16).bitcnt).toNat ≤ Params.default.syncTimeout := by decide

/-- SyncRunsExtendEnterTheFlagOrRestart: either decoded bit, on either side of PREAMBLE_MIN. -/
theorem witness_sync_runs : (waiting .sawZero 9#8 9#16).rawprev = false ∧ (waiting .sawZero 9#8 9#16).rawprev ≠ true ∧
    (waiting .sawZero 9#8 9#16).scount.toNat > (waiting .sawZero 9#8 9#16).params.preambleMin ∧
    (waiting .sawOne 8#8 9#16).scount.toNat ≤ (waiting .sawOne 8#8 9#16).params.preambleMin := by decide

/-- SyncInFlagCountsDownAndFindsSync: the last flag bit, and the one before it, with either decoded bit. -/
theorem witness_in_flag : 1 ≤ (waiting .inFlag 1#8 9#16).scount.toNat ∧ (waiting .inFlag 1#8 9#16).scount - 1#8 = 0#8 ∧
    1 ≤ (waiting .inFlag 2#8 9#16).scount.toNat ∧ (waiting .inFlag 2#8 9#16).scount - 1#8 ≠ 0#8 ∧
    (waiting .inFlag 2#8 9#16).rawprev = false ∧ (waiting .inFlag 2#8 9#16).rawprev ≠ true := by decide

/-- InFlagAcceptsExactlyTheRestOfTheFlag: one and seven bits left; a 0 in the last place that can break the flag. -/
theorem witness_flag_rest : (waiting .inFlag 1#8 9#16).dstate = .waiting ∧ (waiting .inFlag 1#8 9#16).sstate = .inFlag ∧
    (waiting .inFlag 1#8 9#16).scount.toNat = 1 ∧ (waiting .inFlag 7#8 9#16).scount.toNat = 7 ∧ 5 < 7 - 1 := by decide

/-- PreambleIsAcceptedExactlyWhenLongEnough: the shortest preamble, at the latest bit that does not time out. -/
theorem witness_preamble : 1 ≤ 8 ∧ (waiting .sreset 0#8 15#16).dstate = .waiting ∧ (waiting .sreset 0#8 15#16).sstate = .sreset ∧
    (inc (waiting .sreset 0#8 15#16).params.counterOverflow (waiting .sreset 0#8 15#16).bitcnt).toNat ≤
      (waiting .sreset 0#8 15#16).params.syncTimeout ∧
    (waiting .sreset 0#8 15#16).params.wf = true ∧
    ((waiting .sreset 0#8 15#16).params.counterOverflow = .saturate ∨ 8 ≤ 254) := by decide

/-- The same premises with SCOUNT wrapping, at the longest preamble. -/
theorem witness_preamble_wrap :
    let s := { waiting .sreset 0#8 0#16 with params := { counterOverflow := .wrap } }
    s.dstate = .waiting ∧ s.sstate = .sreset ∧ (inc s.params.counterOverflow s.bitcnt).toNat ≤ s.params.syncTimeout ∧
      s.params.wf = true ∧ (s.params.counterOverflow = .saturate ∨ 254 ≤ 254) := by decide

/-- ConstantInputTimesOutAtTheSeventeenthBit. -/
theorem witness_constant : (waiting .sreset 0#8 0#16).dstate = .waiting ∧ (waiting .sreset 0#8 0#16).sstate = .sreset ∧
    (waiting .sreset 0#8 0#16).bitcnt = 0#16 ∧ (waiting .sreset 0#8 0#16).params.syncTimeout = 16 ∧ 16 ≤ 16 := by decide

/-- AlternatingInputNeverLeavesTheRun: either side of the run. -/
theorem witness_alternating : (waiting .sawZero 0#8 1#16).dstate = .waiting ∧
    ((waiting .sawZero 0#8 1#16).sstate = .sawZero ∧ true = true) ∧ (waiting .sawOne 0#8 1#16).dstate = .waiting ∧
    ((waiting .sawOne 0#8 1#16).sstate = .sawOne ∧ false = false) := by decide

/-- StuffBitIsDroppedOrAborts: a stuff bit of 1, of 0, and of 0 at the flag with either verdict. -/
theorem witness_stuff : (receiving false 0x0100#16 5#3 0#8 0#3 0#16 9#16).run = 5#3 ∧
    (receiving false 0x0100#16 5#3 0#8 0#3 0#16 9#16).win.getLsbD 8 = true ∧
    ((receiving false 0x0000#16 5#3 0#8 0#3 0#16 9#16).win.getLsbD 8 = false ∧
      newestByte (nrziPrelude false (receiving false 0x0000#16 5#3 0#8 0#3 0#16 9#16)).win ≠ 0x7E#8) ∧
    ((receiving false 0xFC00#16 5#3 0#8 0#3 0xF0B8#16 9#16).win.getLsbD 8 = false ∧
      newestByte (nrziPrelude true (receiving false 0xFC00#16 5#3 0#8 0#3 0xF0B8#16 9#16)).win = 0x7E#8 ∧
      (receiving false 0xFC00#16 5#3 0#8 0#3 0xF0B8#16 9#16).crc = 0xF0B8#16) ∧
    (receiving false 0xFC00#16 5#3 0#8 0#3 0x0000#16 9#16).crc ≠ 0xF0B8#16 := by decide

/-- DataBitIsAssembledCountedAndFlushed: the last bit within the ceiling, with either input bit and either byte state. -/
theorem witness_data : (receiving false 0x0100#16 4#3 0#8 7#3 0#16 1019#16).run ≠ 5#3 ∧
    (receiving false 0x0100#16 4#3 0#8 7#3 0#16 1019#16).run.toNat < 7 ∧
    (inc (receiving false 0x0100#16 4#3 0#8 7#3 0#16 1019#16).params.counterOverflow
      (receiving false 0x0100#16 4#3 0#8 7#3 0#16 1019#16).bitcnt).toNat ≤
      (receiving false 0x0100#16 4#3 0#8 7#3 0#16 1019#16).params.maxFrameBits ∧
    newestByte (nrziPrelude false (receiving false 0x0100#16 4#3 0#8 7#3 0#16 1019#16)).win ≠ 0x7E#8 ∧
    (receiving false 0x0100#16 4#3 0#8 7#3 0#16 1019#16).win.getLsbD 8 = true ∧
    (receiving false 0x0000#16 4#3 0#8 6#3 0#16 1019#16).win.getLsbD 8 = false := by decide

/-- BitPastTheCeilingAbortsBeforeTheFlagTest: the first bit past it, the window holding the flag. -/
theorem witness_ceiling : (receiving false 0xFC00#16 0#3 0#8 7#3 0#16 1020#16).run ≠ 5#3 ∧
    (inc (receiving false 0xFC00#16 0#3 0#8 7#3 0#16 1020#16).params.counterOverflow
      (receiving false 0xFC00#16 0#3 0#8 7#3 0#16 1020#16).bitcnt).toNat >
      (receiving false 0xFC00#16 0#3 0#8 7#3 0#16 1020#16).params.maxFrameBits ∧
    newestByte (nrziPrelude true (receiving false 0xFC00#16 0#3 0#8 7#3 0#16 1020#16)).win = 0x7E#8 := by decide

/-- EndFlagCommitsExactlyOnTheResidue: V18, and the same with another CRC. -/
theorem witness_end_flag : beforeCommit.run ≠ 5#3 ∧
    (inc beforeCommit.params.counterOverflow beforeCommit.bitcnt).toNat ≤ beforeCommit.params.maxFrameBits ∧
    newestByte (nrziPrelude false beforeCommit).win = 0x7E#8 ∧
    crcStep beforeCommit.crc (beforeCommit.win.getLsbD 8) = 0xF0B8#16 ∧ crcStep 0xE960#16 false ≠ 0xF0B8#16 := by decide

/-- EightBitsFormAByteFirstBitLowest and PrefetchLastsExactlyEightBits: eight bits, and one fewer. -/
theorem witness_eight_bits : flagBits.length = 8 ∧ (flagBits.take 7).length < 8 ∧ 7 < flagBits.length ∧
    ({ State.reset with dstate := .prefetch } : State).dstate = .prefetch ∧
    ({ State.reset with dstate := .prefetch } : State).bitcnt = 0#16 := by decide

/-- ReceivingEndsWithinItsBound: the smallest ceiling. -/
theorem witness_receiving_ends :
    let s := { receiving false 0#16 0#3 0#8 0#3 0xFFFF#16 0#16 with params := { maxFrameBits := 0 } }
    s.dstate = .receiving ∧ s.bitcnt = 0#16 ∧ s.run = 0#3 ∧ s.params.wf = true ∧
      [true].length = s.params.maxFrameBits + 1 + (s.params.maxFrameBits + 1) / 5 := by decide

/-- The largest ceiling that BITCNT can exceed. -/
theorem witness_largest_ceiling : Params.wf { maxFrameBits := 65534 } = true := by decide

/-- EnableRacingABitInOff. -/
theorem witness_enable_race : State.reset.dstate = .off := by decide

/-- The power-on state meets the register invariant. -/
theorem registers_ok_at_power_on : RegistersOk State.reset := by
  constructor <;> decide

/-- DstateMovesOnlyAsTheTransitionTableSays: from each DSTATE a command of each kind runs. -/
theorem witness_dstate_moves : RegistersOk State.reset ∧ (∃ t, command 0b010#3 State.reset = .next t) ∧
    (∃ t, command 0b011#3 State.reset = .next t) ∧ (∃ t, command 0b100#3 State.reset = .next t) ∧
    (∃ t, command 0b101#3 State.reset = .next t) ∧ (∃ t, command (bitWord true) State.reset = .next t) :=
  ⟨registers_ok_at_power_on, ⟨_, rfl⟩, ⟨_, rfl⟩, ⟨_, rfl⟩, ⟨_, rfl⟩, ⟨_, rfl⟩⟩

/-- And in WAITING at the last flag bit, PREFETCH at the eighth bit, and RECEIVING at the ceiling. -/
theorem witness_dstate_boundaries : RegistersOk (waiting .inFlag 1#8 0#16) ∧ RegistersOk (waiting .inFlag 7#8 0#16) ∧
    RegistersOk { State.reset with dstate := .prefetch, bitcnt := 7#16 } ∧
    RegistersOk (receiving false 0#16 5#3 0#8 7#3 0#16 1020#16) := by
  refine ⟨?_, ?_, ?_, ?_⟩ <;> constructor <;> decide

/-- StepsKeepTheParametersAndTheHistory, EveryStepKeepsTheRegisterInvariant: a step with a command, and one without. -/
theorem witness_step_next : (∃ t, step { State.reset with stream := [.word 0b010#3] } = .next t) ∧
    step State.reset = .next State.reset := ⟨⟨_, rfl⟩, rfl⟩

/-- EveryStepKeepsRegistersAndOutputsConsistent: an attempt under way, its packet open, CRC and BITCNT at their start. -/
theorem witness_inv : Inv { receiving false 0#16 0#3 0#8 0#3 0xFFFF#16 0#16 with
    events := [.beginPacket false], stream := [.word 0b001#3] } := by
  refine ⟨by constructor <;> decide, ⟨⟨[], some ⟨false, []⟩⟩, rfl, ?_⟩, rfl⟩
  exact ⟨by decide, fun _ => ⟨[], rfl, rfl, fun _ => rfl⟩, by simp⟩

/-- OnlyValidPacketsAreEverCommitted: a run of one command. -/
theorem witness_run : ∃ t, Host.Core.run core 1 (State.powerOn Params.default [.word 0b010#3] [] [] 0) = .next t := ⟨_, rfl⟩

/-- NoReachableStateIsStuck: a stream of a window and a word. -/
theorem witness_not_stuck : RegistersOk { State.reset with stream := [.concurrent [true] [.enable], .word 0b101#3] } ∧
    streamWf [.concurrent [true] [.enable], .word 0b101#3] = true := ⟨by constructor <;> decide, by decide⟩

/-- OtherPowerOnValuesAreUnobservable: every other register different. -/
theorem witness_other_power_on :
    let s := State.reset
    let t : State :=
      { State.reset with
        rawprev := true, win := 0xFFFF#16, sstate := .inFlag, scount := 0#8, bitcnt := 0xFFFF#16, run := 7#3, crc := 0#16,
        byte := 0xFF#8, bytecnt := 7#3, draws := 5 }
    s.dstate = .off ∧ t.dstate = .off ∧ s.chan = t.chan ∧ s.lasterr = t.lasterr ∧ s.params = t.params ∧ s.events = t.events ∧
      s.results = t.results := by decide

/-- AFrameThatIsSentIsReceivedAndCommitted: the shortest preamble that ends in 1 and in 0, the empty payload, and the
longest payload within the ceiling. -/
theorem witness_frame : ({ State.reset with dstate := .reset } : State).dstate = .reset ∧ Params.default.wf = true ∧
    (Params.default.counterOverflow = .saturate ∨ 8 ≤ 254) ∧ 1 ≤ Params.default.syncTimeout ∧
    ((alternating 8 false).getLast? = some true ∧ Params.default.preambleMin ≤ 8) ∧
    ((alternating 10 true).getLast? = some false ∧ Params.default.preambleMin + 2 ≤ 10) ∧
    8 * (([] : List Byte).length + 2) ≤ Params.default.maxFrameBits ∧ 8 * (125 + 2) ≤ Params.default.maxFrameBits := by decide

end Sys2Proof.Tests
end

section
/-! What every command keeps and what it only extends: the parameters, the event history and the result history. -/

namespace Sys2Proof.Machine

theorem fetch_params {s s' : State} {w : Word} (h : fetch s = some (w, s')) : s'.params = s.params := by
  rw [fetch_frame h]

theorem fetch_events {s s' : State} {w : Word} (h : fetch s = some (w, s')) : s'.events = s.events := by
  rw [fetch_frame h]

theorem fetch_results {s s' : State} {w : Word} (h : fetch s = some (w, s')) : s'.results = s.results := by
  rw [fetch_frame h]

/-- No command writes the parameters (20_memory.md R64). -/
theorem Effect.params_eq {s t : State} {w : Word} (e : Effect s w t) : t.params = s.params := by
  cases e <;> simp

/-- Only the two read commands answer, each with one result (43_packet_handler.md R169, R170). -/
theorem Effect.results_cases {s t : State} {w : Word} (e : Effect s w t) :
    t.results = s.results ∨
    (w = Control.readState.word ∧ t.results = s.results ++ [.state s.dstate.code]) ∨
    (w = Control.readError.word ∧ t.results = s.results ++ [.error s.lasterr.code]) := by
  cases e with
  | readState => exact .inr (.inl ⟨rfl, rfl⟩)
  | readError => exact .inr (.inr ⟨rfl, rfl⟩)
  | _ => exact .inl (by simp)

theorem Effect.results_extend {s t : State} {w : Word} (e : Effect s w t) : ∃ rs, t.results = s.results ++ rs := by
  rcases e.results_cases with hr | ⟨_, hr⟩ | ⟨_, hr⟩
  · exact ⟨[], by simp [hr]⟩
  · exact ⟨_, hr⟩
  · exact ⟨_, hr⟩

theorem OutputEffect.events_extend {s t : State} {w : Word} (e : OutputEffect s w t) :
    ∃ es, t.events = s.events ++ es := by
  cases e with
  | silent he => exact ⟨[], by simp [he]⟩
  | opened _ _ _ he => exact ⟨_, he⟩
  | appended _ _ _ _ he => exact ⟨_, he⟩
  | ended o pre _ _ _ _ he => exact ⟨pre ++ [packetEvent o, .hop (!s.chan)], by rw [he, List.append_assoc]⟩

/-- Settles O47: a step that answers next took no command, and the state stays, or took one, which writes neither
parameters nor histories, and executed it. -/
theorem stepsKeepTheParametersAndTheHistory : Obligations.StepsKeepTheParametersAndTheHistory := by
  intro s t h
  rcases step_cases h with ⟨_, rfl⟩ | ⟨w, s', hfetch, hcmd⟩
  · exact ⟨rfl, ⟨[], by simp⟩, ⟨[], by simp⟩⟩
  · rw [← fetch_params hfetch, ← fetch_events hfetch, ← fetch_results hfetch]
    exact ⟨(command_effect hcmd).params_eq, (command_outputs hcmd).events_extend, (command_effect hcmd).results_extend⟩

end Sys2Proof.Machine
end

section
/-! The register invariant of 10_state.md R36: per DSTATE what of it is left to show, and that every step keeps it. -/

namespace Sys2Proof.Machine

/-- In OFF and RESET the invariant bounds RUN and nothing else. -/
theorem RegistersOk.of_off_or_reset {s : State} (hd : s.dstate = .off ∨ s.dstate = .reset) (hrun : s.run.toNat ≤ 5) :
    RegistersOk s where
  dstate_assigned := by rcases hd with hd | hd <;> rw [hd] <;> rfl
  run_le := hrun
  bytecnt_le := Nat.le_of_lt_succ s.bytecnt.isLt
  flag_bits_left hw := by simp [hw] at hd
  prefetch_bits hp := by simp [hp] at hd
  frame_bits hr := by simp [hr] at hd

theorem RegistersOk.of_waiting {s : State} (hd : s.dstate = .waiting) (hrun : s.run.toNat ≤ 5)
    (hflag : s.sstate = .inFlag → 1 ≤ s.scount.toNat ∧ s.scount.toNat ≤ 7) : RegistersOk s where
  dstate_assigned := by rw [hd]; rfl
  run_le := hrun
  bytecnt_le := Nat.le_of_lt_succ s.bytecnt.isLt
  flag_bits_left _ := hflag
  prefetch_bits := by simp [hd]
  frame_bits := by simp [hd]

theorem RegistersOk.of_prefetch {s : State} (hd : s.dstate = .prefetch) (hrun : s.run.toNat ≤ 5)
    (hbits : s.bitcnt.toNat ≤ 7) : RegistersOk s where
  dstate_assigned := by rw [hd]; rfl
  run_le := hrun
  bytecnt_le := Nat.le_of_lt_succ s.bytecnt.isLt
  flag_bits_left := by simp [hd]
  prefetch_bits _ := hbits
  frame_bits := by simp [hd]

theorem RegistersOk.of_receiving {s : State} (hd : s.dstate = .receiving) (hrun : s.run.toNat ≤ 5)
    (hbits : s.bitcnt.toNat ≤ s.params.maxFrameBits) : RegistersOk s where
  dstate_assigned := by rw [hd]; rfl
  run_le := hrun
  bytecnt_le := Nat.le_of_lt_succ s.bytecnt.isLt
  flag_bits_left := by simp [hd]
  prefetch_bits := by simp [hd]
  frame_bits _ := hbits

/-- The invariant speaks of registers and parameters only, not of the fields the model adds. -/
theorem RegistersOk.of_same_registers {s : State} (h : RegistersOk s) (is : List Issue) (rs : List ReadResult) (n : Nat) :
    RegistersOk { s with stream := is, results := rs, draws := n } :=
  ⟨h.dstate_assigned, h.run_le, h.bytecnt_le, h.flag_bits_left, h.prefetch_bits, h.frame_bits⟩

theorem RegistersOk.fetch {s s' : State} {w : Word} (h : RegistersOk s) (hf : fetch s = some (w, s')) :
    RegistersOk s' := by
  rw [fetch_frame hf]; exact h.of_same_registers _ _ _

theorem RegistersOk.answer {s : State} (h : RegistersOk s) (r : ReadResult) : RegistersOk (s.answer r) :=
  h.of_same_registers _ _ _

/-- While no stuff bit is due the run of ones stays within 5 (42_frame_assembler.md R134). -/
theorem trackRun_run_le {s : State} (a : Bool) (hle : s.run.toNat ≤ 5) (hne : s.run ≠ 5#3) :
    (trackRun a s).run.toNat ≤ 5 := by
  have hlt : s.run.toNat < 5 := Nat.lt_of_le_of_ne hle fun h => hne (BitVec.eq_of_toNat_eq h)
  rw [trackRun_of_lt a (by omega)]
  cases a with
  | true => simp only [if_true]; bv_omega
  | false => simp

/-- A flag count in range that has not run out stays in range (41_synchronizer.md R114). -/
theorem countFlagBit_scount_range {s : State} (h : 1 ≤ s.scount.toNat ∧ s.scount.toNat ≤ 7)
    (hne : (countFlagBit s).scount ≠ 0#8) :
    1 ≤ (countFlagBit s).scount.toNat ∧ (countFlagBit s).scount.toNat ≤ 7 := by
  rw [countFlagBit_of_pos h.1] at hne ⊢
  dsimp only at hne ⊢
  bv_omega

/-- Short of PREFETCH_BITS the bit count of PREFETCH stays at most 7 (43_packet_handler.md R163). -/
theorem inc_le_seven (mode : CounterOverflow) {c : BitVec 16} (hle : c.toNat ≤ 7) (hne : inc mode c ≠ 8#16) :
    (inc mode c).toNat ≤ 7 := by
  have hinc : (inc mode c).toNat = c.toNat + 1 := inc_toNat mode c (by omega)
  have hlt : (inc mode c).toNat ≠ 8 := fun h => hne (BitVec.eq_of_toNat_eq h)
  omega

/-- Every command keeps the register invariant: by the ways a command answers, each with the DSTATE it leaves. -/
theorem Effect.keeps_registersOk {s t : State} {w : Word} (h : RegistersOk s) (e : Effect s w t) : RegistersOk t := by
  cases e with
  | off _ hd => exact .of_off_or_reset (.inl hd) h.run_le
  | reset => exact .of_waiting rfl (by simp) (by simp)
  | timeout => exact .of_off_or_reset (.inr rfl) h.run_le
  | startRun _ hd => exact .of_waiting hd h.run_le (by dsimp only; split <;> simp)
  | extendToOne _ hd => exact .of_waiting hd h.run_le (by simp)
  | extendToZero _ hd => exact .of_waiting hd h.run_le (by simp)
  | enterFlagFromZero _ hd => exact .of_waiting hd h.run_le (by simp)
  | enterFlagFromOne _ hd => exact .of_waiting hd h.run_le (by simp)
  | runTooShort _ hd => exact .of_waiting hd h.run_le (by simp)
  | flagBit _ hd ht _ hne =>
    exact .of_waiting (by simpa using hd) (by simpa using h.run_le)
      fun _ => countFlagBit_scount_range (h.flag_bits_left hd ht) hne
  | flagBroken _ hd => exact .of_waiting (by simpa using hd) (by simpa using h.run_le) (by simp)
  | found => exact .of_prefetch rfl (by simpa using h.run_le) (by simp)
  | prefetch _ hd hne => exact .of_prefetch hd h.run_le (inc_le_seven _ (h.prefetch_bits hd) hne)
  | startFrame => exact .of_receiving rfl (by simp) (by simp)
  | stuffViolation => exact .of_off_or_reset (.inr rfl) h.run_le
  | stuffDropped _ hd => exact .of_receiving hd (by simp) (h.frame_bits hd)
  | stuffDroppedAtFlag => exact .of_off_or_reset (.inr rfl) (by simp)
  | tooLong _ _ hr => exact .of_off_or_reset (.inr rfl) (by simpa using trackRun_run_le _ h.run_le hr)
  | dataBit _ hd hr hb =>
    exact .of_receiving (by simpa using hd) (by simpa using trackRun_run_le _ h.run_le hr) (by simpa using hb)
  | dataBitAtFlag _ _ _ hr => exact .of_off_or_reset (.inr rfl) (by simpa using trackRun_run_le _ h.run_le hr)
  | enableFromOff => exact .of_off_or_reset (.inr rfl) h.run_le
  | enableElsewhere => exact h
  | disable => exact .of_off_or_reset (.inl rfl) h.run_le
  | readState => exact h.answer _
  | readError => exact h.answer _

/-- Settles O51: taking a command writes no register, and every way of executing it keeps the invariant. -/
theorem everyStepKeepsTheRegisterInvariant : Obligations.EveryStepKeepsTheRegisterInvariant := by
  intro s t h hstep
  rcases step_cases hstep with ⟨_, rfl⟩ | ⟨w, s', hfetch, hcmd⟩
  · exact h
  · exact (command_effect hcmd).keeps_registersOk (h.fetch hfetch)

end Sys2Proof.Machine
end

section
/-! The counters at their maximum (10_state.md R37). -/

namespace Sys2Proof.Machine

@[simp] theorem inc_allOnes_saturate (n : Nat) : inc .saturate (BitVec.allOnes n) = BitVec.allOnes n := if_pos rfl

@[simp] theorem inc_allOnes_wrap (n : Nat) : inc .wrap (BitVec.allOnes n) = 0 := if_pos rfl

/-- Settles O24: below the maximum by `inc_toNat`; at the maximum the counter is the word of ones,
where each mode has its equation. -/
theorem incSaturatesOrWrapsAtTheMaximum : Obligations.IncSaturatesOrWrapsAtTheMaximum := by
  intro n c mode
  refine ⟨inc_toNat mode c, ?_, ?_⟩
  · rintro hmax rfl
    simp [eq_allOnes_of_toNat c hmax]
  · rintro hmax rfl
    simp [eq_allOnes_of_toNat c hmax]

end Sys2Proof.Machine
end

section
/-! The power-on state (10_state.md R38): its registers, and that it meets the invariant of registers and outputs. -/

namespace Sys2Proof.Machine

/-- Settles O1: the reset state is the power-on state of the default parameters, and that state is a literal. -/
theorem powerOnGivesEveryRegisterItsValue : Obligations.PowerOnGivesEveryRegisterItsValue := by
  refine ⟨⟨rfl, rfl⟩, fun s hs => ?_⟩
  obtain ⟨p, is, es, rs, n, rfl⟩ : ∃ p is es rs n, s = State.powerOn p is es rs n := by
    rcases hs with rfl | hs
    · exact ⟨_, _, _, _, _, rfl⟩
    · exact hs
  exact ⟨rfl, rfl, rfl, rfl, rfl, rfl, rfl, rfl, rfl, rfl, rfl, rfl⟩

theorem powerOn_registersOk (p : Params) (is : List Issue) (es : List Event) (rs : List ReadResult) (n : Nat) :
    RegistersOk (State.powerOn p is es rs n) :=
  .of_off_or_reset (.inl rfl) (Nat.zero_le 5)

/-- With nothing emitted the sink is empty, and the receiver is on INITIAL_CHAN, which is CHAN (10_state.md R38). -/
theorem powerOn_outputsOk (p : Params) (is : List Issue) (rs : List ReadResult) (n : Nat) :
    OutputsOk (State.powerOn p is [] rs n) where
  sink_ok := ⟨Sink.empty, rfl, by simp [State.powerOn], by simp [State.powerOn], by simp [Sink.empty]⟩
  commanded := rfl

theorem powerOn_inv (p : Params) (is : List Issue) : Inv (State.powerOn p is [] [] 0) :=
  ⟨powerOn_registersOk p is [] [] 0, powerOn_outputsOk p is [] 0⟩

/-- Settles O50: DSTATE is OFF and RUN is 0, and with no events the outputs are in order. -/
theorem invariantHoldsAtPowerOn : Obligations.InvariantHoldsAtPowerOn :=
  ⟨powerOn_inv Params.default [], powerOn_inv⟩

end Sys2Proof.Machine
end

section
/-! The event history as the sink and the receiver read it: what a command appends acts on what the history gave. -/

namespace Sys2Proof.Machine

theorem Sink.acceptAll_append (k : Sink) (es fs : List Event) :
    k.acceptAll (es ++ fs) = (k.acceptAll es).bind (·.acceptAll fs) := by
  induction es generalizing k with
  | nil => rfl
  | cons e es ih => simp only [List.cons_append, Sink.acceptAll, ih, Option.bind_assoc]

theorem State.sink_of_events {s t : State} {k : Sink} {es : List Event} (he : t.events = s.events ++ es)
    (hk : s.sink = some k) : t.sink = k.acceptAll es := by
  rw [State.sink, he, Sink.acceptAll_append, show Sink.empty.acceptAll s.events = some k from hk, Option.bind_some]

theorem State.commandedChannel_of_events {s t : State} {es : List Event} (he : t.events = s.events ++ es)
    (hp : t.params = s.params) : t.commandedChannel = es.foldl retune s.commandedChannel := by
  rw [State.commandedChannel, he, hp, List.foldl_append]; rfl

/-- APPEND to an open packet (20_memory.md R57). -/
theorem Sink.acceptAll_append_byte {k : Sink} {p : Packet} (b : Byte) (hcur : k.current = some p) :
    k.acceptAll [.append b] = some { k with current := some { p with bytes := p.bytes ++ [b] } } := by
  simp [Sink.acceptAll, Sink.accept, hcur]

/-- The end of an attempt moves the open packet to the committed ones or drops it (20_memory.md R57). -/
theorem Sink.acceptAll_end {k : Sink} {p : Packet} (o : ExitOutcome) (ch : Bool) (hcur : k.current = some p) :
    k.acceptAll [packetEvent o, .hop ch] =
      some ⟨if o = .commit then k.committed ++ [p] else k.committed, none⟩ := by
  cases o <;> simp [packetEvent, Sink.acceptAll, Sink.accept, hcur]

@[simp] theorem retune_packetEvent (ch : Bool) (o : ExitOutcome) : retune ch (packetEvent o) = ch := by cases o <;> rfl

theorem packetEvent_cases (o : ExitOutcome) : packetEvent o = .commit ∨ packetEvent o = .discard := by
  cases o <;> simp [packetEvent]

end Sys2Proof.Machine
end

section
/-! Registers that shift in bits at the top (10_state.md R24, R31), read as lists of bits, the oldest first. -/

namespace Sys2Proof.Machine

@[simp] theorem length_lsbBits {n : Nat} (v : BitVec n) : (lsbBits v).length = n := by simp [lsbBits]

theorem getElem_lsbBits {n : Nat} (v : BitVec n) (i : Nat) (h : i < (lsbBits v).length) :
    (lsbBits v)[i] = v.getLsbD i := by simp [lsbBits]

theorem lsbBits_injective {n : Nat} {v w : BitVec n} (h : lsbBits v = lsbBits w) : v = w := by
  refine BitVec.eq_of_getLsbD_eq fun i hi => ?_
  have hv := getElem_lsbBits v i (by simpa using hi)
  have hw := getElem_lsbBits w i (by simpa using hi)
  rw [← hv, ← hw]
  simp only [h]

/-- A register whose bits move down one place, with `a` at the top. -/
theorem lsbBits_of_shifted {n : Nat} {v v' : BitVec (n + 1)} {a : Bool}
    (h : ∀ i, v'.getLsbD i = if i = n then a else v.getLsbD (i + 1)) : lsbBits v' = (lsbBits v).tail ++ [a] := by
  refine List.ext_getElem (by simp) fun i hi _ => ?_
  rw [length_lsbBits] at hi
  rw [getElem_lsbBits, h]
  by_cases hin : i = n
  · subst hin; simp
  · have hlt : i < n := by omega
    simp [hin, hlt, getElem_lsbBits]

theorem lsbBits_shiftWindow (w : BitVec 16) (d : Bool) : lsbBits (shiftWindow w d) = (lsbBits w).tail ++ [d] :=
  lsbBits_of_shifted (shiftWindow_getLsbD w d)

@[simp] theorem length_byteBits (b : Byte) : (byteBits b).length = 8 := length_lsbBits b

theorem getElem_byteBits (b : Byte) (i : Nat) (h : i < (byteBits b).length) : (byteBits b)[i] = b.getLsbD i :=
  getElem_lsbBits b i h

theorem byteBits_shiftByte (b : Byte) (a : Bool) : byteBits (shiftByte b a) = (byteBits b).tail ++ [a] :=
  lsbBits_of_shifted (shiftByte_getLsbD b a)

/-- After any bits such a register holds the newest of its old bits and theirs. -/
theorem lsbBits_foldl {n : Nat} {shift : BitVec n → Bool → BitVec n} (hn : 0 < n)
    (hshift : ∀ v a, lsbBits (shift v a) = (lsbBits v).tail ++ [a]) (v : BitVec n) (as : List Bool) :
    lsbBits (as.foldl shift v) = (lsbBits v ++ as).drop as.length := by
  induction as generalizing v with
  | nil => simp
  | cons a as ih =>
    have hne : lsbBits v ≠ [] := List.ne_nil_of_length_pos (by simpa using hn)
    calc lsbBits (as.foldl shift (shift v a))
        = ((lsbBits v).tail ++ [a] ++ as).drop as.length := by rw [ih, hshift]
      _ = (lsbBits v ++ a :: as).tail.drop as.length := by
          rw [List.tail_append_of_ne_nil hne, List.append_assoc, List.singleton_append]
      _ = (lsbBits v ++ a :: as).drop (as.length + 1) := by rw [List.drop_tail]

/-- The window after decoded bits (40_nrzi.md R103). -/
theorem lsbBits_foldl_shiftWindow (w : BitVec 16) (ds : List Bool) :
    lsbBits (ds.foldl shiftWindow w) = (lsbBits w ++ ds).drop ds.length :=
  lsbBits_foldl (by decide) lsbBits_shiftWindow w ds

/-- The byte under assembly after destuffed bits (42_frame_assembler.md R133). -/
theorem byteBits_foldl_shiftByte (b : Byte) (bits : List Bool) :
    byteBits (bits.foldl shiftByte b) = (byteBits b ++ bits).drop bits.length :=
  lsbBits_foldl (by decide) byteBits_shiftByte b bits

/-- `WIN[15:8]` is the upper half of the window (42_frame_assembler.md R138). -/
theorem byteBits_newestByte (w : BitVec 16) : byteBits (newestByte w) = (lsbBits w).drop 8 := by
  refine List.ext_getElem (by simp) fun i hi _ => ?_
  rw [length_byteBits] at hi
  rw [List.getElem_drop, getElem_lsbBits, getElem_byteBits, newestByte, BitVec.getLsbD_extractLsb']
  simp [hi]

theorem byteBits_flag : byteBits Config.flag = flagBits := by decide

theorem endFlagSeen_iff (w : BitVec 16) : EndFlagSeen w ↔ (lsbBits w).drop 8 = flagBits := by
  rw [← byteBits_newestByte, ← byteBits_flag]
  exact ⟨congrArg byteBits, lsbBits_injective⟩

/-- Bit by bit, the byte that bits in transmission order form (20_memory.md R54). -/
theorem byteOfBits_getLsbD (bits : List Bool) (i : Nat) (hi : i < 8) :
    (byteOfBits bits).getLsbD i = bits.getD i false := by
  induction bits generalizing i with
  | nil => simp [byteOfBits]
  | cons b bits ih =>
    have hcons : byteOfBits (b :: bits) = (byteOfBits bits <<< 1) ||| zextBit 8 b := rfl
    rw [hcons, BitVec.getLsbD_or, BitVec.getLsbD_shiftLeft, zextBit_getLsbD]
    cases i with
    | zero => simp
    | succ i => simpa [hi] using ih i (by omega)

theorem byteBits_byteOfBits {bits : List Bool} (h : bits.length = 8) : byteBits (byteOfBits bits) = bits := by
  refine List.ext_getElem (by simp [h]) fun i _ hi => ?_
  rw [getElem_byteBits, byteOfBits_getLsbD bits i (by omega), List.getD_eq_getElem]

/-- Settles O15: the window is the newest sixteen of its old bits and the decoded ones, and its upper half is the newest
eight. -/
theorem windowHoldsTheNewestBitsInTimeOrder : Obligations.WindowHoldsTheNewestBitsInTimeOrder := by
  refine ⟨fun w ds j hlen hj => ?_, fun w ds hlen => ?_⟩
  · have hpos : 16 - ds.length + j < (lsbBits (ds.foldl shiftWindow w)).length := by
      rw [length_lsbBits]; omega
    have hidx : ds.length + (16 - ds.length + j) = 16 + j := by omega
    rw [← getElem_lsbBits _ _ hpos]
    simp [lsbBits_foldl_shiftWindow, hidx]
  · rw [endFlagSeen_iff, lsbBits_foldl_shiftWindow, hlen, List.drop_drop, List.drop_left' (length_lsbBits w)]
    rfl

/-- Settles O36: after eight bits nothing of the old BYTE is left, and a byte is known by its bits. -/
theorem eightBitsFormAByteFirstBitLowest : Obligations.EightBitsFormAByteFirstBitLowest := by
  intro b bits hlen
  have hbits : byteBits (bits.foldl shiftByte b) = bits := by
    rw [byteBits_foldl_shiftByte, hlen, List.drop_left' (length_byteBits b)]
  exact ⟨lsbBits_injective (hbits.trans (byteBits_byteOfBits hlen).symm), hbits⟩

end Sys2Proof.Machine
end

section
/-! The open packet counted: CRC and BITCNT speak of its bytes and of the bits not yet flushed (10_state.md R30, R31). -/

namespace Sys2Proof.Machine

theorem crcBits_concat (c : BitVec 16) (bits : List Bool) (a : Bool) :
    crcBits c (bits ++ [a]) = crcStep (crcBits c bits) a := by
  simp [crcBits]

theorem bytesBits_concat (bs : List Byte) (b : Byte) : bytesBits (bs ++ [b]) = bytesBits bs ++ byteBits b := by
  simp [bytesBits]

theorem State.length_partialBits (s : State) : s.partialBits.length = s.bytecnt.toNat := by
  have hlt : s.bytecnt.toNat < 8 := s.bytecnt.isLt
  rw [State.partialBits, List.length_drop, length_byteBits]; omega

theorem State.partialBits_of_bytecnt_zero {s : State} (h : s.bytecnt = 0#3) : s.partialBits = [] :=
  List.length_eq_zero_iff.mp (by rw [s.length_partialBits, h]; rfl)

/-- A destuffed bit joins the bits not yet flushed (42_frame_assembler.md R133). -/
theorem drop_byteBits_shiftByte (s : State) (a : Bool) :
    (byteBits (shiftByte s.byte a)).drop (7 - s.bytecnt.toNat) = s.partialBits ++ [a] := by
  have hlt : s.bytecnt.toNat < 8 := s.bytecnt.isLt
  have hlen : (byteBits s.byte).tail.length = 7 := by simp
  rw [byteBits_shiftByte, List.drop_append_of_le_length (by omega), ← List.drop_one, List.drop_drop, State.partialBits]
  congr 2; omega

/-- What `SinkOk` says of CRC and BITCNT in RECEIVING, for the open packet's bytes `bytes`. -/
structure CountsFrame (s : State) (bytes : List Byte) : Prop where
  crc_eq : s.crc = crcBits Config.crcSeed (bytesBits bytes ++ s.partialBits)
  bitcnt_eq : s.params.wf = true → s.bitcnt.toNat = 8 * bytes.length + s.bytecnt.toNat

/-- A frame that is counted, has the residue and is within the ceiling is fit to be committed (44_crc.md R193). -/
theorem CountsFrame.validPacket {s : State} {bytes : List Byte} (h : CountsFrame s bytes) (ch : Bool)
    (hcrc : s.crc = Config.crcResidue) (hb : s.bitcnt.toNat ≤ s.params.maxFrameBits) :
    ValidPacket s.params ⟨ch, bytes⟩ := by
  refine ⟨s.partialBits, ?_, h.crc_eq.symm.trans hcrc, fun hwf => ?_⟩
  · rw [s.length_partialBits]; exact s.bytecnt.isLt
  · rw [s.length_partialBits, ← h.bitcnt_eq hwf]; exact hb

theorem Params.maxFrameBits_lt_of_wf {p : Params} (h : p.wf = true) : p.maxFrameBits < 65535 := by
  simp only [Params.wf, Bool.and_eq_true, decide_eq_true_eq] at h
  exact h.2

/-- The bytes of the open packet after a destuffed bit: one more where the bit is a byte's eighth (42_frame_assembler.md
R136). -/
def bytesAfterBit (s : State) (bytes : List Byte) : List Byte :=
  if s.bytecnt = 7#3 then bytes ++ [shiftByte s.byte (s.win.getLsbD 8)] else bytes

/-- Flushed or not, the frame's bits after a destuffed bit are those before it and the bit. -/
theorem dataState_frameBits (raw : Bool) (s : State) (bytes : List Byte) :
    bytesBits (bytesAfterBit s bytes) ++ (dataState raw s).partialBits =
      bytesBits bytes ++ s.partialBits ++ [s.win.getLsbD 8] := by
  have hshift := drop_byteBits_shiftByte s (s.win.getLsbD 8)
  by_cases h7 : s.bytecnt = 7#3
  · have hpartial : (dataState raw s).partialBits = [] := State.partialBits_of_bytecnt_zero (by simp [h7])
    rw [h7] at hshift
    rw [bytesAfterBit, if_pos h7, bytesBits_concat, hpartial, List.append_nil, List.append_assoc, ← hshift]
    rfl
  · have hcnt : 8 - (s.bytecnt + 1#3).toNat = 7 - s.bytecnt.toNat := by bv_omega
    rw [bytesAfterBit, if_neg h7, State.partialBits, dataState_byte, dataState_bytecnt, if_neg h7, if_neg h7, hcnt, hshift,
      List.append_assoc]

theorem dataState_bitTotal (raw : Bool) (s : State) (bytes : List Byte) :
    8 * (bytesAfterBit s bytes).length + (dataState raw s).bytecnt.toNat = 8 * bytes.length + s.bytecnt.toNat + 1 := by
  by_cases h7 : s.bytecnt = 7#3
  · rw [bytesAfterBit, dataState_bytecnt, if_pos h7, if_pos h7, List.length_append, List.length_singleton, h7]; bv_omega
  · rw [bytesAfterBit, dataState_bytecnt, if_neg h7, if_neg h7]; bv_omega

/-- A destuffed bit is counted by CRC and BITCNT (42_frame_assembler.md R135, R137). -/
theorem CountsFrame.dataState {s : State} {bytes : List Byte} (h : CountsFrame s bytes) (raw : Bool)
    (hb : s.bitcnt.toNat ≤ s.params.maxFrameBits) :
    CountsFrame (dataState raw s) (bytesAfterBit s bytes) where
  crc_eq := by rw [dataState_frameBits, crcBits_concat, ← h.crc_eq, dataState_crc]
  bitcnt_eq hwf := by
    rw [dataState_params] at hwf
    have hmax := Params.maxFrameBits_lt_of_wf hwf
    rw [dataState_bitTotal, ← h.bitcnt_eq hwf, dataState_bitcnt, inc_toNat _ _ (by omega)]

/-- The Frame Assembler starts with nothing counted (43_packet_handler.md R163). -/
theorem CountsFrame.start {s : State} (hcrc : s.crc = Config.crcSeed) (hcnt : s.bytecnt = 0#3) (hb : s.bitcnt = 0#16) :
    CountsFrame s [] where
  crc_eq := by rw [State.partialBits_of_bytecnt_zero hcnt, hcrc]; rfl
  bitcnt_eq _ := by rw [hb, hcnt]; rfl

end Sys2Proof.Machine
end

section
/-! The outputs in order (20_memory.md R57): per DSTATE what of it is left to show, and that every step keeps it. -/

namespace Sys2Proof.Machine

/-- In OFF and RESET only the committed packets are spoken of. -/
theorem SinkOk.of_off_or_reset {s : State} {k : Sink} (hd : s.dstate = .off ∨ s.dstate = .reset)
    (hvalid : ∀ p ∈ k.committed, ValidPacket s.params p) : SinkOk s k where
  opened h := by rcases hd with hd | hd <;> simp [hd] at h
  receiving h := by simp [h] at hd
  committed := hvalid

theorem SinkOk.of_attempt {s : State} {k : Sink} (hd : s.dstate = .waiting ∨ s.dstate = .prefetch)
    (hcur : k.current = some ⟨s.chan, []⟩) (hvalid : ∀ p ∈ k.committed, ValidPacket s.params p) : SinkOk s k where
  opened _ := hcur
  receiving h := by simp [h] at hd
  committed := hvalid

theorem SinkOk.of_receiving {s : State} {k : Sink} {bytes : List Byte} (hd : s.dstate = .receiving)
    (hcur : k.current = some ⟨s.chan, bytes⟩) (hcount : CountsFrame s bytes)
    (hvalid : ∀ p ∈ k.committed, ValidPacket s.params p) : SinkOk s k where
  opened h := by simp [hd] at h
  receiving _ := ⟨bytes, hcur, hcount.crc_eq, hcount.bitcnt_eq⟩
  committed := hvalid

/-- While bits are received the sink has a packet open, on CHAN, and in RECEIVING its bytes are counted. -/
theorem SinkOk.openPacket {s : State} {k : Sink} (h : SinkOk s k) (hd : s.dstate = .waiting ∨ s.dstate = .receiving) :
    ∃ bytes, k.current = some ⟨s.chan, bytes⟩ ∧ (s.dstate = .receiving → CountsFrame s bytes) := by
  rcases hd with hd | hd
  · exact ⟨[], h.opened (.inl hd), by simp [hd]⟩
  · obtain ⟨bytes, hcur, hcrc, hbits⟩ := h.receiving hd
    exact ⟨bytes, hcur, fun _ => ⟨hcrc, hbits⟩⟩

/-- The outputs stay in order when what was emitted takes a sink that fits to one that fits, and retunes to CHAN. -/
theorem OutputsOk.of_events {s t : State} {es : List Event} (h : OutputsOk s) (he : t.events = s.events ++ es)
    (hp : t.params = s.params) (hc : t.chan = es.foldl retune s.chan)
    (hsink : ∀ k, SinkOk s k → ∃ k', k.acceptAll es = some k' ∧ SinkOk t k') : OutputsOk t where
  sink_ok := by
    obtain ⟨k, hk, hok⟩ := h.sink_ok
    obtain ⟨k', hk', hok'⟩ := hsink k hok
    exact ⟨k', (State.sink_of_events he hk).trans hk', hok'⟩
  commanded := by rw [State.commandedChannel_of_events he hp, h.commanded, hc]

/-- The same where nothing was emitted. -/
theorem OutputsOk.of_silent {s t : State} (h : OutputsOk s) (he : t.events = s.events) (hp : t.params = s.params)
    (hc : t.chan = s.chan) (hsink : ∀ k, SinkOk s k → SinkOk t k) : OutputsOk t :=
  h.of_events (es := []) (by rw [he, List.append_nil]) hp hc fun k hok => ⟨k, rfl, hsink k hok⟩

theorem OutputsOk.to_off_or_reset {s t : State} (h : OutputsOk s) (he : t.events = s.events) (hp : t.params = s.params)
    (hc : t.chan = s.chan) (hd : t.dstate = .off ∨ t.dstate = .reset) : OutputsOk t :=
  h.of_silent he hp hc fun _ hok => .of_off_or_reset hd (hp ▸ hok.committed)

/-- Within WAITING and PREFETCH the packet stays open and empty. -/
theorem OutputsOk.within_attempt {s t : State} (h : OutputsOk s) (he : t.events = s.events) (hp : t.params = s.params)
    (hc : t.chan = s.chan) (hd : s.dstate = .waiting ∨ s.dstate = .prefetch)
    (hd' : t.dstate = .waiting ∨ t.dstate = .prefetch) : OutputsOk t :=
  h.of_silent he hp hc fun _ hok => .of_attempt hd' (hc ▸ hok.opened hd) (hp ▸ hok.committed)

/-- The outputs rest on no other field than DSTATE, BITCNT, CRC, BYTE, BYTECNT, CHAN, the parameters and the events. -/
theorem OutputsOk.of_other_fields {s : State} {rawprev : Bool} {win : BitVec 16} {run : BitVec 3} {is : List Issue}
    {rs : List ReadResult} {n : Nat} (h : OutputsOk s) :
    OutputsOk { s with rawprev := rawprev, win := win, run := run, stream := is, results := rs, draws := n } := by
  obtain ⟨⟨k, hk, hok⟩, hcommanded⟩ := h
  exact ⟨⟨k, hk, hok.opened, hok.receiving, hok.committed⟩, hcommanded⟩

theorem OutputsOk.nrziPrelude {s : State} (h : OutputsOk s) (raw : Bool) : OutputsOk (nrziPrelude raw s) :=
  h.of_other_fields

theorem OutputsOk.answer {s : State} (h : OutputsOk s) (r : ReadResult) : OutputsOk (s.answer r) :=
  h.of_other_fields

theorem OutputsOk.fetch {s s' : State} {w : Word} (h : OutputsOk s) (hf : fetch s = some (w, s')) : OutputsOk s' := by
  rw [fetch_frame hf]; exact h.of_other_fields

/-- BEGIN opens an empty packet on CHAN, whatever the sink held (20_memory.md R57). -/
theorem OutputsOk.resetStep {s : State} (h : OutputsOk s) : OutputsOk (resetStep s) :=
  h.of_events (resetStep_events s) rfl rfl fun k hok =>
    ⟨{ k with current := some ⟨s.chan, []⟩ }, rfl, .of_attempt (.inl rfl) rfl hok.committed⟩

/-- A destuffed bit within the range of BITCNT: its byte goes to the open packet, or it stays unflushed
(42_frame_assembler.md R136). -/
theorem OutputsOk.dataState {s : State} (h : OutputsOk s) (raw : Bool) (hd : s.dstate = .receiving)
    (hb : s.bitcnt.toNat ≤ s.params.maxFrameBits) : OutputsOk (dataState raw s) := by
  refine h.of_events (dataState_events raw s) (dataState_params raw s) ?_ fun k hok => ?_
  · rw [dataState_chan]; split <;> rfl
  · obtain ⟨bytes, hcur, hcount⟩ := hok.openPacket (.inr hd)
    refine ⟨{ k with current := some ⟨s.chan, bytesAfterBit s bytes⟩ }, ?_,
      .of_receiving (by simp [hd]) (by simp) ((hcount hd).dataState raw hb) (by simpa using hok.committed)⟩
    by_cases h7 : s.bytecnt = 7#3
    · rw [if_pos h7, Sink.acceptAll_append_byte _ hcur, bytesAfterBit, if_pos h7]
    · rw [if_neg h7, bytesAfterBit, if_neg h7, ← hcur]; rfl

/-- ExitToReset closes the packet; where it commits, what it commits is valid (43_packet_handler.md R164). -/
theorem OutputsOk.exitToReset {s : State} (h : OutputsOk s) (o : ExitOutcome)
    (hd : s.dstate = .waiting ∨ s.dstate = .receiving)
    (hcommit : o = .commit →
      s.dstate = .receiving ∧ s.crc = Config.crcResidue ∧ s.bitcnt.toNat ≤ s.params.maxFrameBits) :
    OutputsOk (exitToReset o s) := by
  refine h.of_events (exitToReset_events o s) rfl (by simp [retune]) fun k hok => ?_
  obtain ⟨bytes, hcur, hcount⟩ := hok.openPacket hd
  refine ⟨_, Sink.acceptAll_end o _ hcur, .of_off_or_reset (.inr rfl) fun p hp => ?_⟩
  by_cases ho : o = .commit
  · obtain ⟨hrecv, hcrc, hb⟩ := hcommit ho
    rw [if_pos ho, List.mem_append, List.mem_singleton] at hp
    rcases hp with hp | rfl
    · exact hok.committed p hp
    · exact (hcount hrecv).validPacket s.chan hcrc hb
  · rw [if_neg ho] at hp
    exact hok.committed p hp

/-- The eighth bit of PREFETCH starts the Frame Assembler on the open, empty packet (43_packet_handler.md R163). -/
theorem OutputsOk.startFrame {s : State} (h : OutputsOk s) (hd : s.dstate = .prefetch) :
    OutputsOk { clearAssembler s with bitcnt := 0#16, dstate := .receiving } :=
  h.of_silent rfl rfl rfl fun _ hok =>
    .of_receiving rfl (hok.opened (.inr hd)) (.start rfl rfl rfl) hok.committed

/-- Every command keeps the outputs in order: by the ways a command answers. -/
theorem Effect.keeps_outputsOk {s t : State} {w : Word} (hr : RegistersOk s) (h : OutputsOk s) (e : Effect s w t) :
    OutputsOk t := by
  cases e with
  | off raw => exact h.nrziPrelude raw
  | reset raw => exact (h.nrziPrelude raw).resetStep
  | timeout raw hd =>
    have hcount : OutputsOk (syncPrelude raw s) := h.within_attempt rfl rfl rfl (.inl hd) (.inl hd)
    exact hcount.exitToReset _ (.inl hd) (by simp)
  | startRun _ hd => exact h.within_attempt rfl rfl rfl (.inl hd) (.inl hd)
  | extendToOne _ hd => exact h.within_attempt rfl rfl rfl (.inl hd) (.inl hd)
  | extendToZero _ hd => exact h.within_attempt rfl rfl rfl (.inl hd) (.inl hd)
  | enterFlagFromZero _ hd => exact h.within_attempt rfl rfl rfl (.inl hd) (.inl hd)
  | enterFlagFromOne _ hd => exact h.within_attempt rfl rfl rfl (.inl hd) (.inl hd)
  | runTooShort _ hd => exact h.within_attempt rfl rfl rfl (.inl hd) (.inl hd)
  | flagBit _ hd => exact h.within_attempt (by simp) (by simp) (by simp) (.inl hd) (.inl (by simpa using hd))
  | flagBroken _ hd => exact h.within_attempt (by simp) (by simp) (by simp) (.inl hd) (.inl (by simpa using hd))
  | found _ hd => exact h.within_attempt (by simp) (by simp) (by simp) (.inl hd) (.inr rfl)
  | prefetch _ hd => exact h.within_attempt rfl rfl rfl (.inr hd) (.inr hd)
  | startFrame raw hd =>
    have hcount : OutputsOk (countBit (Machine.nrziPrelude raw s)) := h.within_attempt rfl rfl rfl (.inr hd) (.inr hd)
    exact hcount.startFrame hd
  | stuffViolation raw hd => exact (h.nrziPrelude raw).exitToReset _ (.inr hd) (by simp)
  | stuffDropped => exact h.of_other_fields
  | stuffDroppedAtFlag raw o hd _ _ _ ho =>
    have hdropped : OutputsOk { Machine.nrziPrelude raw s with run := 0#3 } := h.of_other_fields
    refine hdropped.exitToReset o (.inr hd) fun hc => ⟨hd, ?_, hr.frame_bits hd⟩
    simpa [hc] using ho
  | tooLong raw hd => exact (h.dataState raw hd (hr.frame_bits hd)).exitToReset _ (.inr (by simpa using hd)) (by simp)
  | dataBit raw hd => exact h.dataState raw hd (hr.frame_bits hd)
  | dataBitAtFlag raw o hd _ hb _ ho =>
    refine (h.dataState raw hd (hr.frame_bits hd)).exitToReset o (.inr (by simpa using hd)) fun hc => ?_
    exact ⟨by simpa using hd, by simpa [hc] using ho, by simpa using hb⟩
  | enableFromOff => exact h.to_off_or_reset rfl rfl rfl (.inr rfl)
  | enableElsewhere => exact h
  | disable => exact h.to_off_or_reset rfl rfl rfl (.inl rfl)
  | readState => exact h.answer _
  | readError => exact h.answer _

/-- Settles O52: taking a command writes nothing the invariant speaks of, and every way of executing it keeps both halves
of the invariant. -/
theorem everyStepKeepsRegistersAndOutputsConsistent : Obligations.EveryStepKeepsRegistersAndOutputsConsistent := by
  intro s t ⟨hregs, houts⟩ hstep
  rcases step_cases hstep with ⟨_, rfl⟩ | ⟨w, s', hfetch, hcmd⟩
  · exact ⟨hregs, houts⟩
  · have hregs' := hregs.fetch hfetch
    have heffect := command_effect hcmd
    exact ⟨heffect.keeps_registersOk hregs', heffect.keeps_outputsOk hregs' (houts.fetch hfetch)⟩

end Sys2Proof.Machine
end

section
/-! The event list of one command (20_memory.md R56). -/

namespace Sys2Proof.Machine

/-- The list that ends an attempt, with or without a last byte, is one of the seven. -/
theorem allowedEventList_ended (ch : Bool) (o : ExitOutcome) {pre : List Event}
    (hp : pre = [] ∨ ∃ b, pre = [.append b]) : AllowedEventList ch (pre ++ [packetEvent o, .hop (!ch)]) := by
  unfold AllowedEventList
  rcases hp with rfl | ⟨b, rfl⟩ <;> rcases packetEvent_cases o with ho | ho <;> simp [ho]

/-- Settles O43: by the ways a command touches the outputs; only BIT commands are not silent. -/
theorem oneCommandEmitsOneOfTheSevenEventLists : Obligations.OneCommandEmitsOneOfTheSevenEventLists := by
  intro s t w h
  cases command_outputs h with
  | silent he => exact ⟨[], by simp [he], .inl rfl, fun _ => rfl⟩
  | opened _ hw _ he => exact ⟨_, he, .inr (.inl rfl), by simp [hw]⟩
  | appended b _ hw _ he => exact ⟨_, he, .inr (.inr (.inl ⟨b, rfl⟩)), by simp [hw]⟩
  | ended o pre hw _ _ hp he =>
    exact ⟨pre ++ [packetEvent o, .hop (!s.chan)], by rw [he, List.append_assoc], allowedEventList_ended s.chan o hp,
      by simp [hw]⟩

end Sys2Proof.Machine
end

section
/-! The command stream: what a step takes from each of its shapes, and what a concurrent window gives up in all (20_memory.md
R60, R61). -/

namespace Sys2Proof.Machine

theorem fetch_eq_map (s : State) :
    fetch s = (nextCommand s.stream s.draws).map fun (w, rest, n) => (w, { s with stream := rest, draws := n }) := by
  unfold fetch; cases nextCommand s.stream s.draws <;> rfl

theorem step_of_nextCommand {s : State} {w : Word} {rest : List Issue} {n : Nat}
    (h : nextCommand s.stream s.draws = some (w, rest, n)) : step s = command w { s with stream := rest, draws := n } := by
  rw [step, fetch_eq_map, h]; rfl

theorem step_of_no_command {s : State} (h : nextCommand s.stream s.draws = none) : step s = .next s := by
  rw [step, fetch_eq_map, h]; rfl

theorem command_of_decode {s : State} {w : Word} {i : Instr} (h : decode (s.key w) = .ok i) : command w s = exec i s := by
  rw [command, h]

/-- Where both agents wait, the bit or the control command goes first (20_memory.md R61). -/
theorem nextCommand_race (b : Bool) (bs : List Bool) (c : Control) (cs : List Control) (rest : List Issue) (n : Nat) :
    nextCommand (.concurrent (b :: bs) (c :: cs) :: rest) n = some (bitWord b, .concurrent bs (c :: cs) :: rest, n + 1) ∨
    nextCommand (.concurrent (b :: bs) (c :: cs) :: rest) n = some (c.word, .concurrent (b :: bs) cs :: rest, n + 1) := by
  rw [nextCommand]; split
  · exact .inr rfl
  · exact .inl rfl

/-- Settles O7: what `nextCommand` takes from each shape of the stream, and `exec` of a word that decodes. -/
theorem stepRunsTheDecodedInstruction : Obligations.StepRunsTheDecodedInstruction := by
  refine ⟨fun s w rest i hs hdec => ?_, fun s b bs c cs rest hs => ?_, fun s b bs rest hs => ?_, fun s c cs rest hs => ?_,
    fun s rest hs => ?_, fun s hs => ?_⟩
  · exact (step_of_nextCommand (by rw [hs, nextCommand])).trans (command_of_decode hdec)
  · exact (nextCommand_race b bs c cs rest s.draws).imp (fun h => step_of_nextCommand (hs ▸ h))
      fun h => step_of_nextCommand (hs ▸ h)
  · exact step_of_nextCommand (by rw [hs, nextCommand])
  · exact step_of_nextCommand (by rw [hs, nextCommand])
  · rw [fetch_eq_map, fetch_eq_map, hs, nextCommand]
  · exact step_of_no_command (by rw [hs, nextCommand])

/-- `ws` takes each bit and each control command once, those of each agent in its own order. -/
def KeepsEachOrder (ws : List Word) (bits : List Bool) (controls : List Control) : Prop :=
  ws.length = bits.length + controls.length ∧ ws.filter isBitWord = bits.map bitWord ∧
    ws.filter (fun w => !isBitWord w) = controls.map Control.word

theorem KeepsEachOrder.cons_bit {ws : List Word} {bits : List Bool} {controls : List Control}
    (h : KeepsEachOrder ws bits controls) (b : Bool) : KeepsEachOrder (bitWord b :: ws) (b :: bits) controls := by
  obtain ⟨hlen, hbits, hcontrols⟩ := h
  refine ⟨?_, by simp [hbits], by simp [hcontrols]⟩
  simp only [List.length_cons]; omega

theorem KeepsEachOrder.cons_control {ws : List Word} {bits : List Bool} {controls : List Control}
    (h : KeepsEachOrder ws bits controls) (c : Control) : KeepsEachOrder (c.word :: ws) bits (c :: controls) := by
  obtain ⟨hlen, hbits, hcontrols⟩ := h
  refine ⟨?_, by simp [hbits], by simp [hcontrols]⟩
  simp only [List.length_cons]; omega

theorem drain_succ_of_nextCommand {is rest : List Issue} {w : Word} {k k' : Nat} (n : Nat)
    (h : nextCommand is k = some (w, rest, k')) : drain (n + 1) is k = w :: drain n rest k' := by
  rw [drain, h]

/-- By the number of commands left: the next one is a bit's or a control command's, and the rest of the window follows. -/
theorem drain_concurrent (n : Nat) (bits : List Bool) (controls : List Control) (k : Nat)
    (hn : bits.length + controls.length = n) : KeepsEachOrder (drain n [.concurrent bits controls] k) bits controls := by
  induction n generalizing bits controls k with
  | zero =>
    obtain rfl : bits = [] := List.length_eq_zero_iff.mp (by omega)
    obtain rfl : controls = [] := List.length_eq_zero_iff.mp (by omega)
    exact ⟨rfl, rfl, rfl⟩
  | succ n ih =>
    match bits, controls with
    | [], [] => simp at hn
    | b :: bs, [] =>
      rw [drain_succ_of_nextCommand n (by rw [nextCommand])]
      exact (ih bs [] _ (by simpa using hn)).cons_bit b
    | [], c :: cs =>
      rw [drain_succ_of_nextCommand n (by rw [nextCommand])]
      exact (ih [] cs _ (by simpa using hn)).cons_control c
    | b :: bs, c :: cs =>
      simp only [List.length_cons] at hn
      rcases nextCommand_race b bs c cs [] k with hnext | hnext
      · rw [drain_succ_of_nextCommand n hnext]
        exact (ih bs (c :: cs) _ (by simp only [List.length_cons]; omega)).cons_bit b
      · rw [drain_succ_of_nextCommand n hnext]
        exact (ih (b :: bs) cs _ (by simp only [List.length_cons]; omega)).cons_control c

/-- Settles O48: over as many commands as the window holds. -/
theorem concurrentWindowKeepsEachAgentsOrder : Obligations.ConcurrentWindowKeepsEachAgentsOrder :=
  fun bits controls k => drain_concurrent _ bits controls k rfl

end Sys2Proof.Machine
end

section
/-! The rows of the opcode table read through the fields of the dispatch key: a row applies to a key exactly when the key
decodes to an instruction of that row (30_encoding.md R74, R76). -/

namespace Sys2Proof

theorem bitVec_append_eq_append_iff {m n : Nat} {x x' : BitVec m} {y y' : BitVec n} :
    x ++ y = x' ++ y' ↔ x = x' ∧ y = y' := by
  refine ⟨fun h => ⟨?_, ?_⟩, fun ⟨hx, hy⟩ => hx ▸ hy ▸ rfl⟩
  · simpa only [BitVec.extractLsb'_append_eq_left] using congrArg (BitVec.extractLsb' n m) h
  · simpa only [BitVec.extractLsb'_append_eq_right] using congrArg (BitVec.extractLsb' 0 n) h

theorem DState.code_inj {d e : DState} : d.code = e.code ↔ d = e :=
  (Function.LeftInverse.injective DState.ofCode_code).eq_iff

theorem SState.code_inj {t u : SState} : t.code = u.code ↔ t = u :=
  (Function.LeftInverse.injective SState.ofCode_code).eq_iff

theorem and_six_eq_zero_iff_bitWord (w : Word) : w &&& 6#3 = 0#3 ↔ ∃ raw, w = bitWord raw := by
  revert w; apply forall_word; decide

/-- A row constrains each field of the key by its own part of the mask. -/
theorem applies_iff_fields {name : String} {a c : BitVec 3} {b : BitVec 2} {d e : DState} {t u : SState} {v w : Word} :
    (OpcodeRow.mk name (dispatchKey e u v) (a ++ b ++ c)).applies (dispatchKey d t w) = true ↔
      (d.code &&& a = e.code ∧ t.code &&& b = u.code) ∧ w &&& c = v := by
  rw [OpcodeRow.applies, beq_iff_eq, dispatchKey, dispatchKey, BitVec.and_append, BitVec.and_append,
    bitVec_append_eq_append_iff, bitVec_append_eq_append_iff]

/-- The BIT rows outside WAITING: SSTATE and RAW are masked out. -/
theorem applies_dstateRow_iff (name : String) (e : DState) {d : DState} {t : SState} {w : Word} :
    (OpcodeRow.mk name (dispatchKey e .sreset 0#3) 0xE6#8).applies (dispatchKey d t w) = true ↔
      d = e ∧ ∃ raw, w = bitWord raw := by
  have hmask : (0xE6#8 : Key) = BitVec.allOnes 3 ++ 0#2 ++ 6#3 := by decide
  rw [hmask, applies_iff_fields, BitVec.and_allOnes, DState.code_inj, BitVec.and_zero, and_six_eq_zero_iff_bitWord]
  simp [SState.code]

/-- The four BIT rows of WAITING: only RAW is masked out. -/
theorem applies_syncRow_iff (name : String) (u : SState) {d : DState} {t : SState} {w : Word} :
    (OpcodeRow.mk name (dispatchKey .waiting u 0#3) 0xFE#8).applies (dispatchKey d t w) = true ↔
      (d = .waiting ∧ t = u) ∧ ∃ raw, w = bitWord raw := by
  have hmask : (0xFE#8 : Key) = BitVec.allOnes 3 ++ BitVec.allOnes 2 ++ 6#3 := by decide
  rw [hmask, applies_iff_fields, BitVec.and_allOnes, BitVec.and_allOnes, DState.code_inj, SState.code_inj,
    and_six_eq_zero_iff_bitWord]

/-- The rows of the control surface: DSTATE and SSTATE are masked out. -/
theorem applies_controlRow_iff (name : String) (c : Control) {d : DState} {t : SState} {w : Word} :
    (OpcodeRow.mk name (dispatchKey .off .sreset c.word) 0x07#8).applies (dispatchKey d t w) = true ↔ w = c.word := by
  have hmask : (0x07#8 : Key) = 0#3 ++ 0#2 ++ BitVec.allOnes 3 := by decide
  rw [hmask, applies_iff_fields, BitVec.and_allOnes, BitVec.and_zero, BitVec.and_zero]
  simp [SState.code, DState.code]

/-- By the row: what it fixes of DSTATE, SSTATE and the word is what the decode procedure tests. -/
theorem decodeCommand_of_row_applies {i : Instr} {d : DState} {t : SState} {w : Word}
    (h : i.row.applies (dispatchKey d t w) = true) : ∃ j, decodeCommand w d t = .ok j ∧ j.row = i.row := by
  cases i with
  | bitOff _ =>
    obtain ⟨rfl, raw, rfl⟩ := (applies_dstateRow_iff _ .off).mp h
    exact ⟨.bitOff raw, decodeCommand_bitWord .., rfl⟩
  | bitReset _ =>
    obtain ⟨rfl, raw, rfl⟩ := (applies_dstateRow_iff _ .reset).mp h
    exact ⟨.bitReset raw, decodeCommand_bitWord .., rfl⟩
  | bitSyncReset _ =>
    obtain ⟨⟨rfl, rfl⟩, raw, rfl⟩ := (applies_syncRow_iff _ .sreset).mp h
    exact ⟨.bitSyncReset raw, decodeCommand_bitWord .., rfl⟩
  | bitSyncSawZero _ =>
    obtain ⟨⟨rfl, rfl⟩, raw, rfl⟩ := (applies_syncRow_iff _ .sawZero).mp h
    exact ⟨.bitSyncSawZero raw, decodeCommand_bitWord .., rfl⟩
  | bitSyncSawOne _ =>
    obtain ⟨⟨rfl, rfl⟩, raw, rfl⟩ := (applies_syncRow_iff _ .sawOne).mp h
    exact ⟨.bitSyncSawOne raw, decodeCommand_bitWord .., rfl⟩
  | bitSyncInFlag _ =>
    obtain ⟨⟨rfl, rfl⟩, raw, rfl⟩ := (applies_syncRow_iff _ .inFlag).mp h
    exact ⟨.bitSyncInFlag raw, decodeCommand_bitWord .., rfl⟩
  | bitPrefetch _ =>
    obtain ⟨rfl, raw, rfl⟩ := (applies_dstateRow_iff _ .prefetch).mp h
    exact ⟨.bitPrefetch raw, decodeCommand_bitWord .., rfl⟩
  | bitReceive _ =>
    obtain ⟨rfl, raw, rfl⟩ := (applies_dstateRow_iff _ .receiving).mp h
    exact ⟨.bitReceive raw, decodeCommand_bitWord .., rfl⟩
  | enable => exact ⟨.enable, (applies_controlRow_iff _ .enable).mp h ▸ decodeCommand_enable d t, rfl⟩
  | disable => exact ⟨.disable, (applies_controlRow_iff _ .disable).mp h ▸ decodeCommand_disable d t, rfl⟩
  | readState => exact ⟨.readState, (applies_controlRow_iff _ .readState).mp h ▸ decodeCommand_readState d t, rfl⟩
  | readError => exact ⟨.readError, (applies_controlRow_iff _ .readError).mp h ▸ decodeCommand_readError d t, rfl⟩

theorem row_applies_of_decodeBit {raw : Bool} {d : DState} {t : SState} {i : Instr} (h : decodeBit raw d t = .ok i) :
    i.row.applies (dispatchKey d t (bitWord raw)) = true ∧ i.word = bitWord raw := by
  cases d with
  | off => cases h; exact ⟨(applies_dstateRow_iff _ .off).mpr ⟨rfl, raw, rfl⟩, rfl⟩
  | reset => cases h; exact ⟨(applies_dstateRow_iff _ .reset).mpr ⟨rfl, raw, rfl⟩, rfl⟩
  | waiting =>
    cases t with
    | sreset => cases h; exact ⟨(applies_syncRow_iff _ .sreset).mpr ⟨⟨rfl, rfl⟩, raw, rfl⟩, rfl⟩
    | sawZero => cases h; exact ⟨(applies_syncRow_iff _ .sawZero).mpr ⟨⟨rfl, rfl⟩, raw, rfl⟩, rfl⟩
    | sawOne => cases h; exact ⟨(applies_syncRow_iff _ .sawOne).mpr ⟨⟨rfl, rfl⟩, raw, rfl⟩, rfl⟩
    | inFlag => cases h; exact ⟨(applies_syncRow_iff _ .inFlag).mpr ⟨⟨rfl, rfl⟩, raw, rfl⟩, rfl⟩
  | prefetch => cases h; exact ⟨(applies_dstateRow_iff _ .prefetch).mpr ⟨rfl, raw, rfl⟩, rfl⟩
  | receiving => cases h; exact ⟨(applies_dstateRow_iff _ .receiving).mpr ⟨rfl, raw, rfl⟩, rfl⟩
  | unassigned5 => cases h
  | unassigned6 => cases h
  | unassigned7 => cases h

theorem row_applies_of_decodeCommand {w : Word} {d : DState} {t : SState} {i : Instr}
    (h : decodeCommand w d t = .ok i) : i.row.applies (dispatchKey d t w) = true ∧ i.word = w := by
  rcases word_cases w with ⟨raw, rfl⟩ | ⟨c, rfl⟩ | rfl | rfl
  · exact row_applies_of_decodeBit (decodeCommand_bitWord raw d t ▸ h)
  · cases c <;> cases h <;> exact ⟨(applies_controlRow_iff _ _).mpr rfl, rfl⟩
  · cases h
  · cases h

theorem row_applies_iff_decode {i : Instr} {k : Key} :
    i.row.applies k = true ↔ ∃ j, decode k = .ok j ∧ j.row = i.row := by
  revert k; apply forall_key; intro d t w
  rw [decode_dispatchKey]
  exact ⟨decodeCommand_of_row_applies, fun ⟨j, hj, hrow⟩ => hrow ▸ (row_applies_of_decodeCommand hj).1⟩

theorem word_of_decode {k : Key} {i : Instr} : decode k = .ok i → i.word = k.extractLsb' 0 3 := by
  revert k; apply forall_key; intro d t w h
  rw [decode_dispatchKey] at h
  rw [dispatchKey_command, (row_applies_of_decodeCommand h).2]

end Sys2Proof
end

section
/-! The round trip between instructions and keys: an instruction is its row and its command word, and the don't-care bits
are those neither of the two reads (30_encoding.md R74, R76). -/

namespace Sys2Proof

theorem decode_encode (i : Instr) : decode (encode i) = .ok i := by
  cases i with
  | enable => rfl
  | disable => rfl
  | readState => rfl
  | readError => rfl
  | _ raw => cases raw <;> rfl

/-- Row and word determine the instruction, since they determine its key and decoding gives it back. -/
theorem eq_of_row_of_word {i j : Instr} (hrow : i.row = j.row) (hword : i.word = j.word) : i = j := by
  have hkey : encode i = encode j := by simp only [encode, encodeWith, Instr.dontCare, hrow, hword]
  exact Except.ok.inj (by rw [← decode_encode i, ← decode_encode j, hkey])

theorem keyInRow (i : Instr) : Laws.KeyInRow.Statement i := by
  cases i with
  | bitOff raw => exact Laws.KeyInRow.bitOff raw
  | bitReset raw => exact Laws.KeyInRow.bitReset raw
  | bitSyncReset raw => exact Laws.KeyInRow.bitSyncReset raw
  | bitSyncSawZero raw => exact Laws.KeyInRow.bitSyncSawZero raw
  | bitSyncSawOne raw => exact Laws.KeyInRow.bitSyncSawOne raw
  | bitSyncInFlag raw => exact Laws.KeyInRow.bitSyncInFlag raw
  | bitPrefetch raw => exact Laws.KeyInRow.bitPrefetch raw
  | bitReceive raw => exact Laws.KeyInRow.bitReceive raw
  | enable => exact Laws.KeyInRow.enable
  | disable => exact Laws.KeyInRow.disable
  | readState => exact Laws.KeyInRow.readState
  | readError => exact Laws.KeyInRow.readError

/-- Settles O2: the instruction's row applies to its key, so the key decodes to an instruction of that row, and the key's
command word says to which. -/
theorem decodeGivesBackEveryEncodedInstruction : Obligations.DecodeGivesBackEveryEncodedInstruction := by
  intro i fill
  obtain ⟨happlies, hword⟩ := keyInRow i fill
  obtain ⟨j, hj, hrow⟩ := row_applies_iff_decode.mp happlies
  rw [hj, eq_of_row_of_word hrow ((word_of_decode hj).trans hword)]

/-- Each set bit of the key is in the row's mask, in the command word or among the don't-care bits, and a clear bit is in
none of the three parts. -/
theorem encodeWith_eq_self {i : Instr} {k : Key} (happlies : i.row.applies k = true) (hword : i.word = k.extractLsb' 0 3) :
    encodeWith i k = k := by
  rw [OpcodeRow.applies, beq_iff_eq] at happlies
  refine BitVec.eq_of_getLsbD_eq fun n hn => ?_
  cases hbit : k[n] with
  | false => simp [encodeWith, hword, ← happlies, hn, hbit]
  | true =>
    cases hmask : i.row.mask[n] with
    | true => simp [encodeWith, ← happlies, hn, hbit, hmask]
    | false =>
      have hlow : n < 3 ∨ n ≠ 0 := by omega
      simpa [encodeWith, Instr.dontCare, hword, ← happlies, hn, hbit, hmask] using hlow

/-- Settles O3: the row of the decoded instruction applies to the key, and its word is the key's. -/
theorem everyDecodedKeyIsAnEncodingOfItsInstruction : Obligations.EveryDecodedKeyIsAnEncodingOfItsInstruction :=
  fun _ i h => ⟨encodeWith_eq_self (row_applies_iff_decode.mpr ⟨i, h, rfl⟩) (word_of_decode h), word_of_decode h⟩

end Sys2Proof
end

section
/-! Which keys decode, and which rows of the opcode table apply to a key (30_encoding.md R75). -/

namespace Sys2Proof

theorem row_mem_opcodeTable (i : Instr) : i.row ∈ opcodeTable := by cases i <;> simp [opcodeTable, Instr.row]

theorem exists_row_of_mem_opcodeTable {r : OpcodeRow} (h : r ∈ opcodeTable) : ∃ i : Instr, i.row = r := by
  obtain ⟨i, -, hi⟩ := List.mem_map.mp h
  exact ⟨i, hi⟩

theorem filter_opcodeTable_eq_row (i : Instr) : opcodeTable.filter (fun r => r = i.row) = [i.row] := by
  have hnodup : opcodeTable.Nodup := by decide
  rw [List.filter_eq, List.count_eq_one_of_mem hnodup (row_mem_opcodeTable i), List.replicate_one]

theorem filter_applies_of_decode {k : Key} {i : Instr} (h : decode k = .ok i) :
    opcodeTable.filter (fun r => r.applies k) = [i.row] := by
  rw [← filter_opcodeTable_eq_row i]
  refine List.filter_congr fun r hr => ?_
  obtain ⟨j, rfl⟩ := exists_row_of_mem_opcodeTable hr
  rw [Bool.eq_iff_iff, row_applies_iff_decode, decide_eq_true_iff]
  simp [h, eq_comm]

theorem filter_applies_of_decode_error {k : Key} {e : DecodeError} (h : decode k = .error e) :
    opcodeTable.filter (fun r => r.applies k) = [] := by
  refine List.filter_eq_nil_iff.mpr fun r hr => ?_
  obtain ⟨j, rfl⟩ := exists_row_of_mem_opcodeTable hr
  simp [row_applies_iff_decode, h]

theorem decodeBit_of_assigned (raw : Bool) {d : DState} (t : SState) (h : d.code.toNat ≤ 4) :
    ∃ i, decodeBit raw d t = .ok i := by
  cases d with
  | waiting => cases t <;> exact ⟨_, rfl⟩
  | unassigned5 => exact absurd h (by decide)
  | unassigned6 => exact absurd h (by decide)
  | unassigned7 => exact absurd h (by decide)
  | _ => exact ⟨_, rfl⟩

theorem decodeBit_of_unassigned (raw : Bool) {d : DState} (t : SState) (h : 5 ≤ d.code.toNat) :
    decodeBit raw d t = .error (.bitInUnassignedState d) := by
  cases d with
  | unassigned5 => rfl
  | unassigned6 => rfl
  | unassigned7 => rfl
  | _ => exact absurd h (by decide)

theorem extractLsb'_op_of_word (k : Key) : (k.extractLsb' 0 3).extractLsb' 1 2 = k.extractLsb' 1 2 :=
  BitVec.extractLsb'_extractLsb'_of_le (by decide)

theorem decode_of_reserved_op {k : Key} (h : k.extractLsb' 1 2 = 3#2) :
    decode k = .error (.reservedCommand (k.extractLsb' 0 3)) := by
  simp only [decode, decodeCommand, extractLsb'_op_of_word, h, if_true]

theorem decode_of_bit_op {k : Key} (h : k.extractLsb' 1 2 = 0#2) :
    decode k = decodeBit ((k.extractLsb' 0 3).getLsbD 0) (DState.ofCode (k.extractLsb' 5 3))
      (SState.ofCode (k.extractLsb' 3 2)) := by
  simp only [decode, decodeCommand, extractLsb'_op_of_word, h]
  rfl

theorem decode_of_control_op {k : Key} (h3 : k.extractLsb' 1 2 ≠ 3#2) (h0 : k.extractLsb' 1 2 ≠ 0#2) :
    ∃ i, decode k = .ok i := by
  have hop : k.extractLsb' 1 2 = 1#2 ∨ k.extractLsb' 1 2 = 2#2 := by bv_omega
  rcases hop with hop | hop <;> simp only [decode, decodeCommand, extractLsb'_op_of_word, hop] <;> exact ⟨_, rfl⟩

/-- Settles O4: the rows that apply follow from what the key decodes to, and that follows from its op and DSTATE. -/
theorem exactlyOneOpcodeRowAppliesToEachLegalKey : Obligations.ExactlyOneOpcodeRowAppliesToEachLegalKey := by
  refine fun k => ⟨fun i => filter_applies_of_decode, fun h3 hlegal => ?_, fun h3 => ?_, fun h0 h5 => ?_⟩
  · by_cases h0 : k.extractLsb' 1 2 = 0#2
    · have hle := hlegal.resolve_left (not_not_intro h0)
      rw [decode_of_bit_op h0]
      exact decodeBit_of_assigned _ _ (by rwa [DState.code_ofCode])
    · exact decode_of_control_op h3 h0
  · have hdec := decode_of_reserved_op h3
    exact ⟨hdec, filter_applies_of_decode_error hdec⟩
  · have hdec := (decode_of_bit_op h0).trans (decodeBit_of_unassigned _ _ (by rwa [DState.code_ofCode]))
    exact ⟨hdec, filter_applies_of_decode_error hdec⟩

/-- Settles O5, by decoding each of the fourteen keys. -/
theorem writtenOutKeysDecodeAsTheTableSays : Obligations.WrittenOutKeysDecodeAsTheTableSays := by
  unfold Obligations.WrittenOutKeysDecodeAsTheTableSays
  decide

end Sys2Proof
end

section
/-! The event words (30_encoding.md R78): a word is its kind and its argument. -/

namespace Sys2Proof

theorem kind_of_append (kind : BitVec 3) (arg : Byte) : (kind ++ arg : BitVec 11).extractLsb' 8 3 = kind :=
  BitVec.extractLsb'_append_eq_left

theorem arg_of_append (kind : BitVec 3) (arg : Byte) : (kind ++ arg : BitVec 11).extractLsb' 0 8 = arg :=
  BitVec.extractLsb'_append_eq_right

theorem append_eq_of_kind_of_arg {ev : BitVec 11} {kind : BitVec 3} {arg : Byte} (hkind : ev.extractLsb' 8 3 = kind)
    (harg : ev.extractLsb' 0 8 = arg) : (kind ++ arg : BitVec 11) = ev := by
  rw [← hkind, ← harg]
  exact (BitVec.extractLsb'_append_extractLsb'_eq_extractLsb' rfl).trans BitVec.extractLsb'_eq_self

theorem eq_zextBit_of_le_one {b : Byte} (h : b.toNat ≤ 1) : b = zextBit 8 (b.getLsbD 0) := by
  have hb : b = 0#8 ∨ b = 1#8 := by bv_omega
  rcases hb with rfl | rfl <;> rfl

theorem Event.ofWord_word (e : Event) : Event.ofWord e.word = some e := by
  cases e with
  | beginPacket ch => cases ch <;> rfl
  | append b => simp only [Event.ofWord, Event.word, kind_of_append, arg_of_append]; rfl
  | commit => rfl
  | discard => rfl
  | hop ch => cases ch <;> rfl

theorem Event.word_of_ofWord {ev : BitVec 11} {e : Event} (h : Event.ofWord ev = some e) : e.word = ev := by
  simp only [Event.ofWord] at h
  split_ifs at h with hbegin happend hcommit hdiscard hhop <;> cases h
  · exact append_eq_of_kind_of_arg hbegin.1 (eq_zextBit_of_le_one hbegin.2)
  · exact append_eq_of_kind_of_arg happend rfl
  · exact append_eq_of_kind_of_arg hcommit.1 hcommit.2
  · exact append_eq_of_kind_of_arg hdiscard.1 hdiscard.2
  · exact append_eq_of_kind_of_arg hhop.1 (eq_zextBit_of_le_one hhop.2)

theorem Event.kind_word_ne (e : Event) :
    e.word.extractLsb' 8 3 ≠ 0#3 ∧ e.word.extractLsb' 8 3 ≠ 6#3 ∧ e.word.extractLsb' 8 3 ≠ 7#3 := by
  cases e <;> rw [Event.word, kind_of_append] <;> decide

/-- Settles O6: the words of BEGIN and HOP for either channel, and the rest by splitting a word into kind and argument. -/
theorem eventWordsRoundTripAndSkipUnusedKinds : Obligations.EventWordsRoundTripAndSkipUnusedKinds := by
  refine ⟨fun ch => ?_, fun b => ⟨kind_of_append _ b, arg_of_append _ b⟩, rfl, rfl, Event.ofWord_word,
    fun _ _ => Event.word_of_ofWord, Event.kind_word_ne⟩
  cases ch <;> exact ⟨rfl, rfl⟩

end Sys2Proof
end

section
/-! The NRZI decoder (40_nrzi.md): the decoded bit, the line code it undoes, and what a command does to RAWPREV and WIN. -/

namespace Sys2Proof.Machine

/-- Settles O11, by the four rows of the table. -/
theorem noTransitionDecodesToOne : Obligations.NoTransitionDecodesToOne := ⟨rfl, rfl, rfl, rfl⟩

theorem nrziDecode_not_left (prev raw : Bool) : nrziDecode (!prev) raw = !nrziDecode prev raw := by simp [nrziDecode]

theorem nrziDecode_not_not (prev raw : Bool) : nrziDecode (!prev) (!raw) = nrziDecode prev raw := by simp [nrziDecode]

/-- A kept level decodes to 1 and a flipped one to 0. -/
theorem nrziDecode_encoded (lev l : Bool) : nrziDecode lev (if l then lev else !lev) = l := by
  cases l <;> simp [nrziDecode]

theorem decodeLine_nrziEncode (lev : Bool) (ls : List Bool) : decodeLine lev (nrziEncode lev ls) = ls := by
  induction ls generalizing lev with
  | nil => rfl
  | cons l ls ih => simp only [nrziEncode, decodeLine, nrziDecode_encoded, ih]

/-- From the other level only the first bit differs, since every later one is decoded against a bit of the line. -/
theorem decodeLine_not_nrziEncode_cons (lev l : Bool) (ls : List Bool) :
    decodeLine (!lev) (nrziEncode lev (l :: ls)) = (!l) :: ls := by
  simp only [nrziEncode, decodeLine, nrziDecode_not_left, nrziDecode_encoded, decodeLine_nrziEncode]

theorem decodeLine_not_map_not (lev : Bool) (rs : List Bool) :
    decodeLine (!lev) (rs.map (!·)) = decodeLine lev rs := by
  induction rs generalizing lev with
  | nil => rfl
  | cons r rs ih => simp only [List.map_cons, decodeLine, nrziDecode_not_not, ih]

/-- Settles O14, by induction on the sequence for the same level and for the polarity. -/
theorem nrziDecodingUndoesNrziEncoding : Obligations.NrziDecodingUndoesNrziEncoding :=
  ⟨decodeLine_nrziEncode, decodeLine_not_nrziEncode_cons, decodeLine_not_map_not⟩

/-- The ways a command touches RAWPREV and WIN: a BIT command runs the prelude, after which the Reset step drops all of
WIN but its newest bit; any other command leaves both. -/
inductive NrziEffect (s : State) : Word → State → Prop
  | bit {t : State} (raw : Bool) (hd : s.dstate ≠ .reset) (hraw : t.rawprev = raw)
      (hwin : t.win = shiftWindow s.win (s.decodedBit raw)) : NrziEffect s (bitWord raw) t
  | resetBit {t : State} (raw : Bool) (hd : s.dstate = .reset) (hraw : t.rawprev = raw)
      (hwin : t.win = shiftWindow s.win (s.decodedBit raw) &&& 0x8000#16) : NrziEffect s (bitWord raw) t
  | control {t : State} (c : Control) (hraw : t.rawprev = s.rawprev) (hwin : t.win = s.win) : NrziEffect s c.word t

theorem Effect.nrziEffect {s t : State} {w : Word} (e : Effect s w t) : NrziEffect s w t := by
  cases e with
  | reset raw hd => exact .resetBit raw hd rfl rfl
  | enableFromOff | enableElsewhere => exact .control .enable rfl rfl
  | disable => exact .control .disable rfl rfl
  | readState => exact .control .readState rfl rfl
  | readError => exact .control .readError rfl rfl
  | off raw hd | timeout raw hd | startRun raw hd | extendToOne raw hd | extendToZero raw hd
  | enterFlagFromZero raw hd | enterFlagFromOne raw hd | runTooShort raw hd | flagBit raw hd | flagBroken raw hd
  | found raw hd | prefetch raw hd | startFrame raw hd | stuffViolation raw hd | stuffDropped raw hd
  | stuffDroppedAtFlag raw _ hd | tooLong raw hd | dataBit raw hd | dataBitAtFlag raw _ hd =>
    exact .bit raw (by simp [hd]) (by simp) (by simp)

theorem command_nrziEffect {w : Word} {s t : State} (h : command w s = .next t) : NrziEffect s w t :=
  (command_effect h).nrziEffect

/-- The decoded bit compares the raw bit with the old RAWPREV (40_nrzi.md R101, R103). -/
theorem shiftWindow_decodedBit_newest (s : State) (raw : Bool) :
    (shiftWindow s.win (s.decodedBit raw)).getLsbD 15 = (s.rawprev == raw) := by
  rw [shiftWindow_getLsbD, if_pos rfl, decodedBit_eq]

theorem NrziEffect.rawprev_and_newest {s t : State} {w : Word} (e : NrziEffect s w t) (hw : isBitWord w = true) :
    t.rawprev = w.getLsbD 0 ∧ t.win.getLsbD 15 = (s.rawprev == w.getLsbD 0) := by
  cases e with
  | bit raw _ hraw hwin =>
    rw [bitWord_getLsbD, hwin]
    exact ⟨hraw, shiftWindow_decodedBit_newest s raw⟩
  | resetBit raw _ hraw hwin =>
    rw [bitWord_getLsbD, hwin, keepNewest_getLsbD, decide_eq_true rfl, Bool.true_and]
    exact ⟨hraw, shiftWindow_decodedBit_newest s raw⟩
  | control c => simp at hw

theorem NrziEffect.frame_of_control {s t : State} {w : Word} (e : NrziEffect s w t) (hw : isBitWord w = false) :
    t.rawprev = s.rawprev ∧ t.win = s.win := by
  cases e with
  | bit | resetBit => simp at hw
  | control c hraw hwin => exact ⟨hraw, hwin⟩

/-- Settles O12: the prelude writes RAWPREV after decoding against the old one, and no other operation does. -/
theorem everyBitCommandAndNoOtherWritesRawprev : Obligations.EveryBitCommandAndNoOtherWritesRawprev := by
  intro s t w h
  have e := command_nrziEffect h
  exact ⟨e.rawprev_and_newest, fun hw => (e.frame_of_control hw).1⟩

/-- Every bit of WIN below WIN[15] is the old bit above it, and 0 after the Reset step (40_nrzi.md R103). -/
theorem NrziEffect.win_getLsbD_of_lt {s t : State} {w : Word} (e : NrziEffect s w t) (hw : isBitWord w = true) {i : Nat}
    (hi : i < 15) : t.win.getLsbD i = (s.win.getLsbD (i + 1) && s.dstate != .reset) := by
  have hne : i ≠ 15 := by omega
  cases e with
  | bit raw hd _ hwin => rw [hwin, shiftWindow_getLsbD, if_neg hne, bne_iff_ne.mpr hd, Bool.and_true]
  | resetBit raw hd _ hwin =>
    rw [hwin, keepNewest_getLsbD, decide_eq_false hne, hd, bne_self_eq_false, Bool.false_and, Bool.and_false]
  | control c => simp at hw

/-- Settles O13: WIN[15] is the bit of O12, the bits below it move down or are cleared, and no other operation writes WIN. -/
theorem everyBitCommandShiftsTheWindow : Obligations.EveryBitCommandShiftsTheWindow := by
  intro s t w h
  have e := command_nrziEffect h
  exact ⟨fun hw => ⟨(e.rawprev_and_newest hw).2, fun _ => e.win_getLsbD_of_lt hw⟩, fun hw => (e.frame_of_control hw).2⟩

end Sys2Proof.Machine
end

section
/-! Feeding logical bits (40_nrzi.md R105): the raw bit that carries a logical bit, and a run cut after any of its bits. -/

namespace Sys2Proof.Machine

/-- The raw bit that carries the logical bit `d` from the line level the block holds (40_nrzi.md R105). -/
def State.rawOf (s : State) (d : Bool) : Bool := if d then s.rawprev else !s.rawprev

@[simp] theorem decodedBit_rawOf (s : State) (d : Bool) : s.decodedBit (s.rawOf d) = d := nrziDecode_encoded s.rawprev d

/-- The command that carries the first logical bit leaves the level that the rest are encoded from. -/
theorem feed_cons {s t : State} {d : Bool} (h : command (bitWord (s.rawOf d)) s = .next t) (ds : List Bool) :
    feed (d :: ds) s = feed ds t := by
  have hraw : t.rawprev = s.rawOf d :=
    ((command_nrziEffect h).rawprev_and_newest (isBitWord_bitWord _)).1.trans (bitWord_getLsbD _)
  show runCommands (bitWord (s.rawOf d) :: (nrziEncode (s.rawOf d) ds).map bitWord) s = feed ds t
  rw [runCommands, h, feed, hraw]

theorem command_next_of_feed_cons {s t : State} {d : Bool} {ds : List Bool} (h : feed (d :: ds) s = .next t) :
    ∃ u, command (bitWord (s.rawOf d)) s = .next u := by
  change runCommands (bitWord (s.rawOf d) :: (nrziEncode (s.rawOf d) ds).map bitWord) s = .next t at h
  rw [runCommands] at h
  split at h
  · exact ⟨_, ‹_›⟩
  · cases h
  · cases h

theorem feed_append {s t : State} {ds : List Bool} (h : feed ds s = .next t) (es : List Bool) :
    feed (ds ++ es) s = feed es t := by
  induction ds generalizing s with
  | nil => cases h; rfl
  | cons d ds ih =>
    obtain ⟨u, hu⟩ := command_next_of_feed_cons h
    rw [feed_cons hu] at h
    rw [List.cons_append, feed_cons hu, ih h]

/-- A BIT command runs the instruction that DSTATE and SSTATE select (43_packet_handler.md R160). -/
theorem command_bitWord {s : State} {raw : Bool} {i : Instr} (h : decodeBit raw s.dstate s.sstate = .ok i) :
    command (bitWord raw) s = exec i s := by
  rw [command_eq, decodeCommand_bitWord, h]

end Sys2Proof.Machine
end

section
/-! The Synchronizer's operations, one equation per branch (41_synchronizer.md R111 to R115). -/

namespace Sys2Proof.Machine

/-- The sub-state that a run of alternating bits is in after the decoded bit `d`. -/
def sawState (d : Bool) : SState := if d then .sawOne else .sawZero

theorem execBitSyncReset_timeout {s : State} {raw : Bool}
    (h : (inc s.params.counterOverflow s.bitcnt).toNat > s.params.syncTimeout) :
    execBitSyncReset raw s = .next (exitToReset .syncTimeout (syncPrelude raw s)) :=
  congrArg Host.Outcome.next (if_pos h)

theorem execBitSyncReset_start {s : State} {raw : Bool}
    (h : (inc s.params.counterOverflow s.bitcnt).toNat ≤ s.params.syncTimeout) :
    execBitSyncReset raw s =
      .next { syncPrelude raw s with scount := 0#8, sstate := sawState (s.decodedBit raw) } :=
  congrArg Host.Outcome.next (if_neg (Nat.not_lt.mpr h))

theorem repeatedBit_of_long {s : State} (remain : BitVec 8) (h : s.scount.toNat > s.params.preambleMin) :
    repeatedBit remain s = { s with sstate := .inFlag, scount := remain } := if_pos h

theorem repeatedBit_of_short {s : State} (remain : BitVec 8) (h : s.scount.toNat ≤ s.params.preambleMin) :
    repeatedBit remain s = { s with sstate := .sreset } := if_neg (Nat.not_lt.mpr h)

theorem execBitSyncSawZero_one {s : State} {raw : Bool} (hd : s.decodedBit raw = true) :
    execBitSyncSawZero raw s = .next { countRun (syncPrelude raw s) with sstate := .sawOne } := by
  simp [execBitSyncSawZero, hd]

theorem execBitSyncSawZero_zero {s : State} {raw : Bool} (hd : s.decodedBit raw = false) :
    execBitSyncSawZero raw s = .next (repeatedBit 7#8 (syncPrelude raw s)) := by
  simp [execBitSyncSawZero, hd, Config.flagRemainSaw0]

theorem execBitSyncSawOne_zero {s : State} {raw : Bool} (hd : s.decodedBit raw = false) :
    execBitSyncSawOne raw s = .next { countRun (syncPrelude raw s) with sstate := .sawZero } := by
  simp [execBitSyncSawOne, hd]

theorem execBitSyncSawOne_one {s : State} {raw : Bool} (hd : s.decodedBit raw = true) :
    execBitSyncSawOne raw s = .next (repeatedBit 5#8 (syncPrelude raw s)) := by
  simp [execBitSyncSawOne, hd, Config.flagRemainSaw1]

theorem execBitSyncInFlag_goesOn {s : State} {raw : Bool} (hc : (countFlagBit (syncPrelude raw s)).scount ≠ 0#8)
    (hd : s.decodedBit raw = true) : execBitSyncInFlag raw s = .next (countFlagBit (syncPrelude raw s)) := by
  simp [execBitSyncInFlag, hc, hd]

theorem execBitSyncInFlag_found {s : State} {raw : Bool} (hc : (countFlagBit (syncPrelude raw s)).scount = 0#8)
    (hd : s.decodedBit raw = false) :
    execBitSyncInFlag raw s = .next (syncFound (countFlagBit (syncPrelude raw s))) := by
  simp [execBitSyncInFlag, hc, hd]

/-- A 0 with bits to come, and a 1 in the last place, restart the Synchronizer. -/
theorem execBitSyncInFlag_broken {s : State} {raw : Bool}
    (h : (countFlagBit (syncPrelude raw s)).scount ≠ 0#8 ∧ s.decodedBit raw = false ∨
      (countFlagBit (syncPrelude raw s)).scount = 0#8 ∧ s.decodedBit raw = true) :
    execBitSyncInFlag raw s = .next { countFlagBit (syncPrelude raw s) with sstate := .sreset } := by
  rcases h with ⟨hc, hd⟩ | ⟨hc, hd⟩ <;> simp [execBitSyncInFlag, hc, hd]

/-- Settles O25: the two branches of the operation, the first ending in ExitToReset. -/
theorem syncResetTimesOutOrStartsARun : Obligations.SyncResetTimesOutOrStartsARun := by
  refine ⟨fun raw => ?_, fun s raw => ⟨fun h => ?_, fun h => ?_⟩⟩
  · rw [decode_dispatchKey, decodeCommand_bitWord]; rfl
  · rw [exec, execBitSyncReset_timeout h, exitToReset_eq]; rfl
  · rw [exec, execBitSyncReset_start h, decodedBit_eq]
    cases s.rawprev <;> cases raw <;> rfl

/-- Settles O26: an alternating bit extends the run, and a repeated one enters the flag or restarts. -/
theorem syncRunsExtendEnterTheFlagOrRestart : Obligations.SyncRunsExtendEnterTheFlagOrRestart := by
  refine ⟨fun raw => ⟨?_, ?_⟩, fun s raw =>
    ⟨fun hr => ?_, fun hr h => ?_, fun hr h => ?_, fun hr => ?_, fun hr h => ?_, fun hr h => ?_⟩⟩
  · rw [decode_dispatchKey, decodeCommand_bitWord]; rfl
  · rw [decode_dispatchKey, decodeCommand_bitWord]; rfl
  · rw [exec, execBitSyncSawZero_one (decodedBit_of_eq hr)]; rfl
  · rw [exec, execBitSyncSawZero_zero (decodedBit_of_ne hr), repeatedBit_of_long (s := syncPrelude raw s) _ h]; rfl
  · rw [exec, execBitSyncSawZero_zero (decodedBit_of_ne hr), repeatedBit_of_short (s := syncPrelude raw s) _ h]; rfl
  · rw [exec, execBitSyncSawOne_zero (decodedBit_of_ne hr)]; rfl
  · rw [exec, execBitSyncSawOne_one (decodedBit_of_eq hr), repeatedBit_of_long (s := syncPrelude raw s) _ h]; rfl
  · rw [exec, execBitSyncSawOne_one (decodedBit_of_eq hr), repeatedBit_of_short (s := syncPrelude raw s) _ h]; rfl

/-- Settles O27: the count of the flag's bits is `countFlagBit`, and the branches follow from it and the decoded bit. -/
theorem syncInFlagCountsDownAndFindsSync : Obligations.SyncInFlagCountsDownAndFindsSync := by
  intro s raw
  have hframe := countFlagBit_frame (syncPrelude raw s)
  refine ⟨(countFlagBit (syncPrelude raw s)).scount, (countFlagBit (syncPrelude raw s)).draws, fun hpos => ?_,
    fun hv hr => ?_, fun hv hr => ?_, fun hv hr => ?_, fun hv hr => ?_⟩
  · rw [countFlagBit_of_pos (s := syncPrelude raw s) hpos]
    exact ⟨by simp only [syncPrelude_scount]; bv_omega, rfl⟩
  · exact (execBitSyncInFlag_goesOn hv (decodedBit_of_eq hr)).trans (congrArg Host.Outcome.next hframe)
  · rw [exec, execBitSyncInFlag_broken (.inl ⟨hv, decodedBit_of_ne hr⟩), hframe]; rfl
  · rw [exec, execBitSyncInFlag_broken (.inr ⟨hv, decodedBit_of_eq hr⟩), hframe]; rfl
  · rw [exec, execBitSyncInFlag_found hv (decodedBit_of_ne hr), hframe]; rfl

end Sys2Proof.Machine
end

section
/-! BIT in WAITING, by the logical bit it carries: the next state per SSTATE (41_synchronizer.md R111 to R115). -/

namespace Sys2Proof.Machine

/-- The Synchronizer is at work, in sub-state `u`. -/
structure WaitingIn (u : SState) (s : State) : Prop where
  dstate : s.dstate = .waiting
  sstate : s.sstate = u

theorem command_waiting {s : State} {u : SState} {raw : Bool} {i : Instr} (h : WaitingIn u s)
    (hi : decodeBit raw .waiting u = .ok i) : command (bitWord raw) s = exec i s :=
  command_bitWord (by rw [h.dstate, h.sstate, hi])

theorem command_syncTimeout {s : State} (h : WaitingIn .sreset s) (raw : Bool)
    (hb : (inc s.params.counterOverflow s.bitcnt).toNat > s.params.syncTimeout) :
    command (bitWord raw) s = .next (exitToReset .syncTimeout (syncPrelude raw s)) :=
  (command_waiting h rfl).trans (execBitSyncReset_timeout hb)

theorem command_startRun {s : State} (h : WaitingIn .sreset s) (d : Bool)
    (hb : (inc s.params.counterOverflow s.bitcnt).toNat ≤ s.params.syncTimeout) :
    command (bitWord (s.rawOf d)) s =
      .next { syncPrelude (s.rawOf d) s with scount := 0#8, sstate := sawState d } := by
  rw [command_waiting h rfl, exec, execBitSyncReset_start hb, decodedBit_rawOf]

theorem command_extendRun {s : State} {b : Bool} (h : WaitingIn (sawState b) s) :
    command (bitWord (s.rawOf (!b))) s =
      .next { countRun (syncPrelude (s.rawOf (!b)) s) with sstate := sawState (!b) } := by
  cases b with
  | false => exact (command_waiting h rfl).trans (execBitSyncSawZero_one (decodedBit_rawOf s true))
  | true => exact (command_waiting h rfl).trans (execBitSyncSawOne_zero (decodedBit_rawOf s false))

/-- The bits of the flag still to come when the repeated bit `b` was taken for its first (41_synchronizer.md R112, R113). -/
def flagRemain (b : Bool) : BitVec 8 := if b then 5#8 else 7#8

theorem command_repeatedBit {s : State} {b : Bool} (h : WaitingIn (sawState b) s) :
    command (bitWord (s.rawOf b)) s = .next (repeatedBit (flagRemain b) (syncPrelude (s.rawOf b) s)) := by
  cases b with
  | false => exact (command_waiting h rfl).trans (execBitSyncSawZero_zero (decodedBit_rawOf s false))
  | true => exact (command_waiting h rfl).trans (execBitSyncSawOne_one (decodedBit_rawOf s true))

theorem command_enterFlag {s : State} {b : Bool} (h : WaitingIn (sawState b) s)
    (hlong : s.scount.toNat > s.params.preambleMin) :
    command (bitWord (s.rawOf b)) s =
      .next { syncPrelude (s.rawOf b) s with sstate := .inFlag, scount := flagRemain b } := by
  rw [command_repeatedBit h, repeatedBit_of_long (s := syncPrelude (s.rawOf b) s) _ hlong]

theorem command_runTooShort {s : State} {b : Bool} (h : WaitingIn (sawState b) s)
    (hshort : s.scount.toNat ≤ s.params.preambleMin) :
    command (bitWord (s.rawOf b)) s = .next { syncPrelude (s.rawOf b) s with sstate := .sreset } := by
  rw [command_repeatedBit h, repeatedBit_of_short (s := syncPrelude (s.rawOf b) s) _ hshort]

/-- The flag count after a bit in INFLAG, from 1 up. -/
theorem countFlagBit_syncPrelude_toNat {s : State} (raw : Bool) (hpos : 1 ≤ s.scount.toNat) :
    (countFlagBit (syncPrelude raw s)).scount.toNat = s.scount.toNat - 1 := by
  rw [countFlagBit_of_pos (s := syncPrelude raw s) hpos]
  simp only [syncPrelude_scount]; bv_omega

theorem countFlagBit_syncPrelude_eq_zero_iff {s : State} (raw : Bool) (hpos : 1 ≤ s.scount.toNat) :
    (countFlagBit (syncPrelude raw s)).scount = 0#8 ↔ s.scount.toNat = 1 := by
  rw [← BitVec.toNat_inj, countFlagBit_syncPrelude_toNat raw hpos, BitVec.toNat_ofNat]; omega

theorem command_flagOne {s : State} (h : WaitingIn .inFlag s) (hc : 1 < s.scount.toNat) :
    command (bitWord (s.rawOf true)) s = .next (countFlagBit (syncPrelude (s.rawOf true) s)) := by
  have hne := (countFlagBit_syncPrelude_eq_zero_iff (s.rawOf true) hc.le).not.mpr hc.ne'
  exact (command_waiting h rfl).trans (execBitSyncInFlag_goesOn hne (decodedBit_rawOf s true))

theorem command_flagFound {s : State} (h : WaitingIn .inFlag s) (hc : s.scount.toNat = 1) :
    command (bitWord (s.rawOf false)) s = .next (syncFound (countFlagBit (syncPrelude (s.rawOf false) s))) := by
  have hz := (countFlagBit_syncPrelude_eq_zero_iff (s.rawOf false) hc.ge).mpr hc
  exact (command_waiting h rfl).trans (execBitSyncInFlag_found hz (decodedBit_rawOf s false))

/-- The bit that cannot stand at its place of the flag: a 1 in the last place, a 0 before it. -/
theorem command_flagBroken {s : State} {d : Bool} (h : WaitingIn .inFlag s) (hpos : 1 ≤ s.scount.toNat)
    (hd : d = decide (s.scount.toNat = 1)) :
    command (bitWord (s.rawOf d)) s =
      .next { countFlagBit (syncPrelude (s.rawOf d) s) with sstate := .sreset } := by
  have hz := countFlagBit_syncPrelude_eq_zero_iff (s.rawOf d) hpos
  refine (command_waiting h rfl).trans (execBitSyncInFlag_broken ?_)
  rw [decodedBit_rawOf, hz, Ne, hz]
  by_cases hc : s.scount.toNat = 1
  · exact .inr ⟨hc, hd.trans (decide_eq_true hc)⟩
  · exact .inl ⟨hc, hd.trans (decide_eq_false hc)⟩

end Sys2Proof.Machine
end

section
/-! Logical bits that emit nothing, and the runs and flags the Synchronizer reads among them (41_synchronizer.md R116 to
R119). -/

namespace Sys2Proof.Machine

/-- The logical bits `ds` take `s` to `t` within an attempt: nothing is emitted, and CHAN, LASTERR and the parameters
stay. -/
structure QuietFeed (s : State) (ds : List Bool) (t : State) : Prop where
  feed_eq : feed ds s = .next t
  events : t.events = s.events
  chan : t.chan = s.chan
  lasterr : t.lasterr = s.lasterr
  params : t.params = s.params

theorem QuietFeed.nil (s : State) : QuietFeed s [] s := ⟨rfl, rfl, rfl, rfl, rfl⟩

theorem QuietFeed.append {s t u : State} {ds es : List Bool} (h : QuietFeed s ds t) (h' : QuietFeed t es u) :
    QuietFeed s (ds ++ es) u where
  feed_eq := (feed_append h.feed_eq es).trans h'.feed_eq
  events := h'.events.trans h.events
  chan := h'.chan.trans h.chan
  lasterr := h'.lasterr.trans h.lasterr
  params := h'.params.trans h.params

theorem QuietFeed.single {s t : State} {d : Bool} (h : command (bitWord (s.rawOf d)) s = .next t)
    (he : t.events = s.events := by simp) (hc : t.chan = s.chan := by simp) (hl : t.lasterr = s.lasterr := by simp) :
    QuietFeed s [d] t :=
  ⟨feed_cons h [], he, hc, hl, (command_effect h).params_eq⟩

/-- The first bit of a run, in SRESET and without a timeout. -/
theorem quietFeed_startRun {s : State} (h : WaitingIn .sreset s) (d : Bool)
    (hb : (inc s.params.counterOverflow s.bitcnt).toNat ≤ s.params.syncTimeout) :
    ∃ t, QuietFeed s [d] t ∧ WaitingIn (sawState d) t ∧ t.scount = 0#8 ∧
      t.bitcnt = inc s.params.counterOverflow s.bitcnt :=
  ⟨_, .single (command_startRun h d hb), ⟨h.dstate, rfl⟩, rfl, rfl⟩

/-- Alternating bits extend the run, one count of SCOUNT each. -/
theorem quietFeed_alternating (k : Nat) {s : State} {b : Bool} (h : WaitingIn (sawState b) s) :
    ∃ l t, QuietFeed s (alternating k (!b)) t ∧ (b :: alternating k (!b)).getLast? = some l ∧
      WaitingIn (sawState l) t ∧ t.scount = (inc s.params.counterOverflow)^[k] s.scount := by
  induction k generalizing s b with
  | zero => exact ⟨b, s, .nil s, rfl, h, rfl⟩
  | succ k ih =>
    have hstep := QuietFeed.single (command_extendRun h)
    obtain ⟨l, t, hfeed, hlast, hwait, hcount⟩ := ih (b := !b)
      (s := { countRun (syncPrelude (s.rawOf (!b)) s) with sstate := sawState (!b) }) ⟨h.dstate, rfl⟩
    exact ⟨l, t, hstep.append hfeed, by rw [alternating, List.getLast?_cons_cons, hlast], hwait, hcount⟩

/-- The 1s of the flag, with bits of it still to come. -/
theorem quietFeed_flagOnes (j : Nat) {s : State} (h : WaitingIn .inFlag s) (hj : j < s.scount.toNat) :
    ∃ t, QuietFeed s (List.replicate j true) t ∧ WaitingIn .inFlag t ∧ t.scount.toNat = s.scount.toNat - j := by
  induction j with
  | zero => exact ⟨s, .nil s, h, rfl⟩
  | succ j ih =>
    obtain ⟨t, hfeed, hwait, hcount⟩ := ih (by omega)
    have hc : 1 < t.scount.toNat := by omega
    refine ⟨_, List.replicate_succ' ▸ hfeed.append (.single (command_flagOne hwait hc)), ⟨?_, ?_⟩, ?_⟩
    · simp [hwait.dstate]
    · simp [hwait.sstate]
    · rw [countFlagBit_syncPrelude_toNat _ hc.le]; omega

theorem quietFeed_flagFound {s : State} (h : WaitingIn .inFlag s) (hc : s.scount.toNat = 1) :
    ∃ t, QuietFeed s [false] t ∧ t.dstate = .prefetch ∧ t.bitcnt = 0#16 :=
  ⟨_, .single (command_flagFound h hc), rfl, rfl⟩

theorem quietFeed_flagBroken {s : State} {d : Bool} (h : WaitingIn .inFlag s) (hpos : 1 ≤ s.scount.toNat)
    (hd : d = decide (s.scount.toNat = 1)) : ∃ t, QuietFeed s [d] t ∧ WaitingIn .sreset t :=
  ⟨_, .single (command_flagBroken h hpos hd), by simp [h.dstate], rfl⟩

/-- What is left of the flag in INFLAG is 1s and one 0 (41_synchronizer.md R116). -/
theorem quietFeed_flagRest {s : State} {n : Nat} (h : WaitingIn .inFlag s) (hn : s.scount.toNat = n + 1) :
    ∃ t, QuietFeed s (List.replicate n true ++ [false]) t ∧ t.dstate = .prefetch ∧ t.bitcnt = 0#16 := by
  obtain ⟨t, hones, hwait, hcount⟩ := quietFeed_flagOnes n h (by omega)
  obtain ⟨u, hzero, hfound⟩ := quietFeed_flagFound hwait (by omega)
  exact ⟨u, hones.append hzero, hfound⟩

/-- Settles O28: the ones before the bit in question are taken; that bit then ends the flag or breaks it. -/
theorem inFlagAcceptsExactlyTheRestOfTheFlag : Obligations.InFlagAcceptsExactlyTheRestOfTheFlag := by
  intro s n hd ht hn h1 h7
  have hwait : WaitingIn .inFlag s := ⟨hd, ht⟩
  refine ⟨?_, fun j hj => ?_, ?_⟩
  · obtain ⟨t, hfeed, hpre, hbits⟩ := quietFeed_flagRest (n := n - 1) hwait (by omega)
    exact ⟨t, hfeed.feed_eq, hpre, hbits, hfeed.events⟩
  · obtain ⟨t, hones, hwait', hcount⟩ := quietFeed_flagOnes j hwait (by omega)
    obtain ⟨u, hzero, hback⟩ := quietFeed_flagBroken (d := false) hwait' (by omega)
      (decide_eq_false (by omega)).symm
    have hfeed := hones.append hzero
    exact ⟨u, hfeed.feed_eq, hback.dstate, hback.sstate, hfeed.events⟩
  · obtain ⟨t, hones, hwait', hcount⟩ := quietFeed_flagOnes (n - 1) hwait (by omega)
    obtain ⟨u, hone, hback⟩ := quietFeed_flagBroken (d := true) hwait' (by omega)
      (decide_eq_true (by omega)).symm
    have hfeed := hones.append hone
    rw [← List.replicate_succ', Nat.sub_add_cancel h1] at hfeed
    exact ⟨u, hfeed.feed_eq, hback.dstate, hback.sstate, hfeed.events⟩

/-- Settles O31: alternating bits only extend the run. -/
theorem alternatingInputNeverLeavesTheRun : Obligations.AlternatingInputNeverLeavesTheRun := by
  intro s n f hd hphase
  have hwait : WaitingIn (sawState (!f)) s := by
    rcases hphase with ⟨ht, rfl⟩ | ⟨ht, rfl⟩
    · exact ⟨hd, ht⟩
    · exact ⟨hd, ht⟩
  obtain ⟨l, t, hfeed, _, hwait', _⟩ := quietFeed_alternating n hwait
  rw [Bool.not_not] at hfeed
  refine ⟨t, hfeed.feed_eq, hwait'.dstate, ?_, hfeed.events, hfeed.chan⟩
  cases l with
  | false => exact .inl hwait'.sstate
  | true => exact .inr hwait'.sstate

end Sys2Proof.Machine
end

section
/-! Constant input (41_synchronizer.md R118): each pair of bits starts a run and breaks it off. -/

namespace Sys2Proof.Machine

theorem quietFeed_constantPair {s : State} (h : WaitingIn .sreset s) (d : Bool)
    (hb : (inc s.params.counterOverflow s.bitcnt).toNat ≤ s.params.syncTimeout) :
    ∃ t, QuietFeed s [d, d] t ∧ WaitingIn .sreset t ∧
      t.bitcnt = inc s.params.counterOverflow (inc s.params.counterOverflow s.bitcnt) := by
  obtain ⟨u, hfirst, hwait, hcount, hbits⟩ := quietFeed_startRun h d hb
  have hsecond := QuietFeed.single (command_runTooShort hwait (by rw [hcount]; exact Nat.zero_le _))
  exact ⟨_, hfirst.append hsecond, ⟨hwait.dstate, rfl⟩, by simp [hbits, hfirst.params]⟩

theorem quietFeed_constantPairs (j : Nat) {s : State} (h : WaitingIn .sreset s) (d : Bool)
    (hj : s.bitcnt.toNat + 2 * j ≤ s.params.syncTimeout) (hmax : s.params.syncTimeout < 65535) :
    ∃ t, QuietFeed s (List.replicate (2 * j) d) t ∧ WaitingIn .sreset t ∧
      t.bitcnt.toNat = s.bitcnt.toNat + 2 * j := by
  induction j with
  | zero => exact ⟨s, .nil s, h, rfl⟩
  | succ j ih =>
    obtain ⟨t, hfeed, hwait, hbits⟩ := ih (by omega)
    have hinc := inc_toNat t.params.counterOverflow t.bitcnt (by omega)
    obtain ⟨u, hpair, hwait', hbits'⟩ := quietFeed_constantPair hwait d (by rw [hinc, hfeed.params]; omega)
    refine ⟨u, List.replicate_add (2 * j) 2 d ▸ hfeed.append hpair, hwait', ?_⟩
    rw [hbits', inc_toNat _ _ (by omega), hinc]; omega

/-- Settles O30: an even number of bits leaves SRESET, one more a run just started; at the 17th SRESET counts beyond 16. -/
theorem constantInputTimesOutAtTheSeventeenthBit : Obligations.ConstantInputTimesOutAtTheSeventeenthBit := by
  intro s d hd ht hbits htimeout
  have hwait : WaitingIn .sreset s := ⟨hd, ht⟩
  have hpairs (j : Nat) (hj : 2 * j ≤ 16) := quietFeed_constantPairs j hwait d
    (by rw [hbits, htimeout]; simpa using hj) (by omega)
  refine ⟨fun k hk => ?_, ?_⟩
  · obtain ⟨t, hfeed, hwait', hcount⟩ := hpairs (k / 2) (by omega)
    rcases Nat.mod_two_eq_zero_or_one k with hmod | hmod
    · rw [show 2 * (k / 2) = k by omega] at hfeed
      exact ⟨t, hfeed.feed_eq, hwait'.dstate, hfeed.events⟩
    · have hinc := inc_toNat t.params.counterOverflow t.bitcnt (by rw [hcount, hbits, BitVec.toNat_ofNat]; omega)
      obtain ⟨u, hlast, hrun, _⟩ := quietFeed_startRun hwait' d
        (by rw [hinc, hcount, hbits, hfeed.params, htimeout, BitVec.toNat_ofNat]; omega)
      have hall := hfeed.append hlast
      rw [← List.replicate_succ', show 2 * (k / 2) + 1 = k by omega] at hall
      exact ⟨u, hall.feed_eq, hrun.dstate, hall.events⟩
  · obtain ⟨t, hfeed, hwait', hcount⟩ := hpairs 8 (by omega)
    have hinc := inc_toNat t.params.counterOverflow t.bitcnt (by rw [hcount, hbits, BitVec.toNat_ofNat]; omega)
    have hout := command_syncTimeout hwait' (t.rawOf d)
      (by rw [hinc, hcount, hbits, hfeed.params, htimeout, BitVec.toNat_ofNat]; omega)
    refine ⟨_, (feed_append hfeed.feed_eq [d]).trans (feed_cons hout []), rfl, ?_, ?_, ?_⟩
    · exact hfeed.lasterr
    · simp [hfeed.chan]
    · simp [hfeed.events, hfeed.chan, packetEvent]

end Sys2Proof.Machine
end

section
/-! Preambles (41_synchronizer.md R117): SCOUNT at the repeated bit of the flag decides, and a refused flag is not found. -/

namespace Sys2Proof.Machine

/-- SCOUNT after `k` alternating bits: the count, unless the counter holds at its maximum (10_state.md R37). -/
theorem toNat_iterate_inc {mode : CounterOverflow} {k : Nat} (hk : mode = .saturate ∨ k ≤ 255) :
    ((inc mode)^[k] 0#8).toNat = min k 255 := by
  induction k with
  | zero => rfl
  | succ k ih =>
    have ih := ih (hk.imp_right (by omega))
    rw [Function.iterate_succ_apply']
    by_cases hlt : k < 255
    · rw [inc_toNat mode _ (by omega)]; omega
    · obtain rfl : mode = .saturate := hk.resolve_right (by omega)
      have hmax := eq_allOnes_of_toNat ((inc .saturate)^[k] 0#8) (by omega)
      rw [hmax, inc_allOnes_saturate, BitVec.toNat_allOnes]; omega

theorem iterate_inc_gt_iff {mode : CounterOverflow} {k p : Nat} (hk : mode = .saturate ∨ k ≤ 255) (hp : p < 255) :
    ((inc mode)^[k] 0#8).toNat > p ↔ p < k := by
  rw [toNat_iterate_inc hk]; omega

/-- The flag from the bit that repeats the last bit of the run, `b` (41_synchronizer.md R112, R113). -/
def flagFrom (b : Bool) : List Bool := b :: (List.replicate (if b then 4 else 6) true ++ [false])

theorem flagBits_eq_flagFrom_zero : flagBits = flagFrom false := rfl

/-- After a 1 the flag's first 0 and 1 still alternate. -/
theorem flagBits_eq_flagFrom_one : flagBits = alternating 2 (!true) ++ flagFrom true := rfl

theorem quietFeed_flagFrom {s : State} {b : Bool} (h : WaitingIn (sawState b) s)
    (hlong : s.scount.toNat > s.params.preambleMin) :
    ∃ t, QuietFeed s (flagFrom b) t ∧ t.dstate = .prefetch ∧ t.bitcnt = 0#16 := by
  have henter := QuietFeed.single (command_enterFlag h hlong)
  obtain ⟨t, hrest, hfound⟩ := quietFeed_flagRest (n := if b then 4 else 6)
    (s := { syncPrelude (s.rawOf b) s with sstate := .inFlag, scount := flagRemain b }) ⟨h.dstate, rfl⟩
    (by cases b <;> rfl)
  exact ⟨t, henter.append hrest, hfound⟩

/-- A state from which 1s do not lead to INFLAG: RESET, SRESET, or a run of one 1. -/
inductive OffRun (s : State) : Prop
  | reset (h : s.dstate = .reset)
  | sreset (h : WaitingIn .sreset s)
  | sawOne (h : WaitingIn (sawState true) s) (hshort : s.scount.toNat ≤ s.params.preambleMin)

theorem command_bitReset {s : State} (h : s.dstate = .reset) (raw : Bool) :
    command (bitWord raw) s = .next (resetStep (nrziPrelude raw s)) :=
  command_bitWord (i := .bitReset raw) (by rw [h]; rfl)

theorem OffRun.command_one {s : State} (h : OffRun s) :
    ∃ t, command (bitWord (s.rawOf true)) s = .next t ∧ OffRun t := by
  cases h with
  | reset h => exact ⟨_, command_bitReset h _, .sreset ⟨rfl, rfl⟩⟩
  | sreset h =>
    by_cases hb : (inc s.params.counterOverflow s.bitcnt).toNat > s.params.syncTimeout
    · exact ⟨_, command_syncTimeout h _ hb, .reset rfl⟩
    · exact ⟨_, command_startRun h true (Nat.not_lt.mp hb), .sawOne ⟨h.dstate, rfl⟩ (Nat.zero_le _)⟩
  | sawOne h hshort => exact ⟨_, command_runTooShort h hshort, .sreset ⟨h.dstate, rfl⟩⟩

theorem OffRun.feed_ones {s : State} (h : OffRun s) (k : Nat) :
    ∃ t, feed (List.replicate k true) s = .next t ∧ OffRun t := by
  induction k generalizing s with
  | zero => exact ⟨s, rfl, h⟩
  | succ k ih =>
    obtain ⟨u, hu, hoff⟩ := h.command_one
    obtain ⟨t, ht, hoff'⟩ := ih hoff
    exact ⟨t, (feed_cons hu _).trans ht, hoff'⟩

/-- A 0 finds no flag where none was entered. -/
theorem OffRun.feed_zero {s : State} (h : OffRun s) : ∃ t, feed [false] s = .next t ∧ t.dstate ≠ .prefetch := by
  cases h with
  | reset h => exact ⟨_, feed_cons (command_bitReset h _) [], by simp⟩
  | sreset h =>
    by_cases hb : (inc s.params.counterOverflow s.bitcnt).toNat > s.params.syncTimeout
    · exact ⟨_, feed_cons (command_syncTimeout h _ hb) [], by simp⟩
    · exact ⟨_, feed_cons (command_startRun h false (Nat.not_lt.mp hb)) [], by simp [h.dstate]⟩
  | sawOne h => exact ⟨_, feed_cons (command_extendRun h) [], by simp [h.dstate]⟩

theorem feed_flagFrom_of_short {s : State} {b : Bool} (h : WaitingIn (sawState b) s)
    (hshort : s.scount.toNat ≤ s.params.preambleMin) :
    ∃ t, feed (flagFrom b) s = .next t ∧ t.dstate ≠ .prefetch := by
  have hback := command_runTooShort h hshort
  obtain ⟨t, hones, hoff⟩ := OffRun.feed_ones
    (s := { syncPrelude (s.rawOf b) s with sstate := .sreset }) (.sreset ⟨h.dstate, rfl⟩) (if b then 4 else 6)
  obtain ⟨u, hzero, hnot⟩ := hoff.feed_zero
  exact ⟨u, (feed_cons hback _).trans ((feed_append hones _).trans hzero), hnot⟩

/-- The preambles of 41_synchronizer.md R117: `n` bits from `f` on that end with 1, or that end with 0 and are two more. -/
def LongEnough (p : Params) (n : Nat) (f : Bool) : Prop :=
  ((alternating n f).getLast? = some true ∧ p.preambleMin ≤ n) ∨
    ((alternating n f).getLast? = some false ∧ p.preambleMin + 2 ≤ n)

theorem Params.preambleMin_lt_of_wf {p : Params} (h : p.wf = true) : p.preambleMin < 255 := by
  simp only [Params.wf, Bool.and_eq_true, decide_eq_true_eq] at h
  exact h.1.2

/-- The preamble from SRESET: a run whose count is one less than its bits. -/
theorem quietFeed_preamble {s : State} {n : Nat} (f : Bool) (hn : 1 ≤ n) (h : WaitingIn .sreset s)
    (hb : (inc s.params.counterOverflow s.bitcnt).toNat ≤ s.params.syncTimeout) :
    ∃ l t, QuietFeed s (alternating n f) t ∧ (alternating n f).getLast? = some l ∧ WaitingIn (sawState l) t ∧
      t.scount = (inc s.params.counterOverflow)^[n - 1] 0#8 := by
  obtain ⟨m, rfl⟩ : ∃ m, n = m + 1 := ⟨n - 1, by omega⟩
  obtain ⟨u, hfirst, hwait, hzero, _⟩ := quietFeed_startRun h f hb
  obtain ⟨l, t, hrest, hlast, hwait', hcount⟩ := quietFeed_alternating m hwait
  refine ⟨l, t, hfirst.append hrest, hlast, hwait', ?_⟩
  rw [hcount, hzero, hfirst.params]; rfl

/-- The preamble and the flag up to the bit that repeats: there the run is long enough exactly when the preamble is. -/
theorem quietFeed_untilRepeated {s : State} {n : Nat} (f : Bool) (hn : 1 ≤ n) (h : WaitingIn .sreset s)
    (hb : (inc s.params.counterOverflow s.bitcnt).toNat ≤ s.params.syncTimeout) (hwf : s.params.wf = true)
    (hmode : s.params.counterOverflow = .saturate ∨ n ≤ 254) :
    ∃ b pre t, alternating n f ++ flagBits = pre ++ flagFrom b ∧ QuietFeed s pre t ∧ WaitingIn (sawState b) t ∧
      (t.scount.toNat > t.params.preambleMin ↔ LongEnough s.params n f) := by
  have hpre := Params.preambleMin_lt_of_wf hwf
  obtain ⟨l, t, hfeed, hlast, hwait, hcount⟩ := quietFeed_preamble f hn h hb
  cases l with
  | false =>
    refine ⟨false, _, t, by rw [flagBits_eq_flagFrom_zero], hfeed, hwait, ?_⟩
    rw [hcount, hfeed.params, iterate_inc_gt_iff (hmode.imp_right (by omega)) hpre, LongEnough, hlast]
    simp only [Option.some.injEq, Bool.false_eq_true, false_and, true_and, false_or]
    omega
  | true =>
    obtain ⟨b, u, hmore, hlast', hwait', hcount'⟩ := quietFeed_alternating 2 hwait
    obtain rfl : true = b := Option.some.inj hlast'
    refine ⟨true, _, u, by rw [flagBits_eq_flagFrom_one, List.append_assoc], hfeed.append hmore, hwait', ?_⟩
    rw [hcount', hcount, hmore.params, hfeed.params, ← Function.iterate_add_apply,
      iterate_inc_gt_iff (hmode.imp_right (by omega)) hpre, LongEnough, hlast]
    simp only [Option.some.injEq, Bool.true_eq_false, false_and, true_and, or_false]
    omega

theorem quietFeed_preamble_flag {s : State} {n : Nat} {f : Bool} (hn : 1 ≤ n) (h : WaitingIn .sreset s)
    (hb : (inc s.params.counterOverflow s.bitcnt).toNat ≤ s.params.syncTimeout) (hwf : s.params.wf = true)
    (hmode : s.params.counterOverflow = .saturate ∨ n ≤ 254) (hlong : LongEnough s.params n f) :
    ∃ t, QuietFeed s (alternating n f ++ flagBits) t ∧ t.dstate = .prefetch ∧ t.bitcnt = 0#16 := by
  obtain ⟨b, pre, u, hbits, hfeed, hwait, hiff⟩ := quietFeed_untilRepeated f hn h hb hwf hmode
  obtain ⟨t, hflag, hfound⟩ := quietFeed_flagFrom hwait (hiff.mpr hlong)
  exact ⟨t, hbits ▸ hfeed.append hflag, hfound⟩

/-- Settles O29: at the repeated bit of the flag the run is long enough exactly when the preamble is, and the rest of the
flag is then found, or is fed to a Synchronizer that is off the run. -/
theorem preambleIsAcceptedExactlyWhenLongEnough : Obligations.PreambleIsAcceptedExactlyWhenLongEnough := by
  intro s n f hn hd ht hb hwf hmode
  by_cases hlong : LongEnough s.params n f
  · obtain ⟨t, hfeed, hfound, _⟩ := quietFeed_preamble_flag hn ⟨hd, ht⟩ hb hwf hmode hlong
    exact ⟨t, hfeed.feed_eq, iff_of_true hfound hlong⟩
  · obtain ⟨b, pre, u, hbits, hfeed, hwait, hiff⟩ := quietFeed_untilRepeated f hn ⟨hd, ht⟩ hb hwf hmode
    obtain ⟨t, hrest, hnot⟩ := feed_flagFrom_of_short hwait (Nat.not_lt.mp (hiff.not.mpr hlong))
    exact ⟨t, by rw [hbits, feed_append hfeed.feed_eq, hrest], iff_of_false hnot hlong⟩

end Sys2Proof.Machine
end

section
/-! The frame check sequence (44_crc.md R196): the CRC step is linear, so a register fed its own complement
leaves the residue. -/

namespace Sys2Proof.Machine

/-- The step is a right shift, with the polynomial added where the bit that leaves is 1 (44_crc.md R191). -/
theorem crcStep_eq (c : BitVec 16) (b : Bool) :
    crcStep c b = (c >>> 1) ^^^ (if c.getLsbD 0 ^^ b then Config.crcPoly else 0#16) := by
  have hlow : (c ^^^ zextBit 16 b).getLsbD 0 = (c.getLsbD 0 ^^ b) := by
    rw [BitVec.getLsbD_xor, zextBit_getLsbD]; simp
  have hbit : zextBit 16 b >>> 1 = 0#16 := by cases b <;> rfl
  have hshift : (c ^^^ zextBit 16 b) >>> 1 = c >>> 1 := by
    rw [BitVec.ushiftRight_xor_distrib, hbit, BitVec.xor_zero]
  simp only [crcStep, hlow, hshift]
  cases c.getLsbD 0 ^^ b <;> simp

/-- The step is linear in register and bit. -/
theorem crcStep_xor (c z : BitVec 16) (a b : Bool) : crcStep (c ^^^ z) (a ^^ b) = crcStep c a ^^^ crcStep z b := by
  have hlow : ((c ^^^ z).getLsbD 0 ^^ (a ^^ b)) = ((c.getLsbD 0 ^^ a) ^^ (z.getLsbD 0 ^^ b)) := by
    rw [BitVec.getLsbD_xor, Bool.xor_assoc, Bool.xor_assoc, Bool.xor_left_comm a]
  have hpoly (x y : Bool) : (if x ^^ y then Config.crcPoly else 0#16) =
      (if x then Config.crcPoly else 0#16) ^^^ (if y then Config.crcPoly else 0#16) := by
    cases x <;> cases y <;> rfl
  rw [crcStep_eq, crcStep_eq c, crcStep_eq z, hlow, hpoly, BitVec.ushiftRight_xor_distrib]; ac_rfl

theorem crcStep_own_bit (c : BitVec 16) : crcStep c (c.getLsbD 0) = c >>> 1 := by
  simp [crcStep_eq]

/-- Fed the complement of its own low bits, the register shifts them out, and what comes in does not depend on it. -/
theorem crcBits_complement (c : BitVec 16) (k : Nat) :
    crcBits c ((List.range k).map fun i => !c.getLsbD i) = (c >>> k) ^^^ crcBits 0#16 (List.replicate k true) := by
  induction k with
  | zero => simp [crcBits]
  | succ k ih =>
    have hlow : (c >>> k).getLsbD 0 = c.getLsbD k := by simp
    rw [List.range_succ, List.map_append, List.map_singleton, crcBits_concat, ih, List.replicate_succ', crcBits_concat,
      ← Bool.xor_true, crcStep_xor, ← hlow, crcStep_own_bit, ← BitVec.shiftRight_add]

theorem crcBits_append (c : BitVec 16) (as bs : List Bool) : crcBits c (as ++ bs) = crcBits (crcBits c as) bs :=
  List.foldl_append

theorem byteBits_lowByte (v : BitVec 16) : byteBits (v.extractLsb' 0 8) = (lsbBits v).take 8 := by
  refine List.ext_getElem (by simp) fun i hi _ => ?_
  rw [length_byteBits] at hi
  rw [List.getElem_take, getElem_lsbBits, getElem_byteBits, BitVec.getLsbD_extractLsb']
  simp [hi]

/-- The two bytes of a 16-bit value, low byte first, are its bits (44_crc.md R196). -/
theorem bytesBits_halves (v : BitVec 16) : bytesBits [v.extractLsb' 0 8, v.extractLsb' 8 8] = lsbBits v := by
  have hhigh : byteBits (v.extractLsb' 8 8) = (lsbBits v).drop 8 := byteBits_newestByte v
  simp only [bytesBits, List.flatMap_cons, List.flatMap_nil, List.append_nil]
  rw [byteBits_lowByte, hhigh, List.take_append_drop]

theorem bytesBits_append (as bs : List Byte) : bytesBits (as ++ bs) = bytesBits as ++ bytesBits bs :=
  List.flatMap_append

theorem lsbBits_not {n : Nat} (c : BitVec n) : lsbBits (~~~c) = (List.range n).map fun i => !c.getLsbD i := by
  refine List.map_congr_left fun i hi => ?_
  rw [BitVec.getLsbD_not, decide_eq_true (List.mem_range.mp hi), Bool.true_and]

/-- The bits of a payload with its frame check sequence leave the residue, whatever the payload (44_crc.md R196). -/
theorem crcBits_payload_fcs (bs : List Byte) :
    crcBits Config.crcSeed (bytesBits (bs ++ fcsBytes bs)) = Config.crcResidue := by
  have hfcs : bytesBits (fcsBytes bs) = lsbBits (~~~crcBits Config.crcSeed (bytesBits bs)) := bytesBits_halves _
  have hout (c : BitVec 16) : c >>> 16 = 0#16 := BitVec.ushiftRight_eq_zero (Nat.le_refl 16)
  have hones : crcBits 0#16 (List.replicate 16 true) = Config.crcResidue := by
    simp [crcBits, crcStep, zextBit, Config.crcPoly, Config.crcResidue]
  rw [bytesBits_append, hfcs, crcBits_append, lsbBits_not, crcBits_complement, hout, hones, BitVec.zero_xor]

end Sys2Proof.Machine
end

section
/-! PREFETCH, bit by bit (43_packet_handler.md R163). -/

namespace Sys2Proof.Machine

theorem command_prefetch {s : State} (hd : s.dstate = .prefetch) (raw : Bool)
    (hb : inc s.params.counterOverflow s.bitcnt ≠ 8#16) :
    command (bitWord raw) s = .next (countBit (nrziPrelude raw s)) :=
  (command_bitWord (i := .bitPrefetch raw) (by rw [hd]; rfl)).trans (congrArg Host.Outcome.next (if_neg hb))

theorem command_startFrame {s : State} (hd : s.dstate = .prefetch) (raw : Bool)
    (hb : inc s.params.counterOverflow s.bitcnt = 8#16) :
    command (bitWord raw) s =
      .next { clearAssembler (countBit (nrziPrelude raw s)) with bitcnt := 0#16, dstate := .receiving } :=
  (command_bitWord (i := .bitPrefetch raw) (by rw [hd]; rfl)).trans (congrArg Host.Outcome.next (if_pos hb))

/-- RECEIVING as PREFETCH leaves it: the Frame Assembler at its start values. -/
structure FrameStart (s : State) : Prop where
  dstate : s.dstate = .receiving
  run : s.run = 0#3
  crc : s.crc = Config.crcSeed
  bytecnt : s.bytecnt = 0#3
  bitcnt : s.bitcnt = 0#16

/-- The bits up to the eighth of PREFETCH start the Frame Assembler and stand in the window. -/
theorem quietFeed_prefetch (d : Bool) (ds : List Bool) {s : State} (hd : s.dstate = .prefetch)
    (hlen : s.bitcnt.toNat + ds.length = 7) :
    ∃ t, QuietFeed s (d :: ds) t ∧ FrameStart t ∧ t.win = (d :: ds).foldl shiftWindow s.win := by
  have hinc := inc_toNat s.params.counterOverflow s.bitcnt (by omega)
  induction ds generalizing s d with
  | nil =>
    have hlast : s.bitcnt.toNat = 7 := hlen
    have height : inc s.params.counterOverflow s.bitcnt = 8#16 := BitVec.eq_of_toNat_eq (by rw [hinc, hlast]; rfl)
    exact ⟨_, .single (command_startFrame hd (s.rawOf d) height), ⟨rfl, rfl, rfl, rfl, rfl⟩, by simp⟩
  | cons e ds ih =>
    rw [List.length_cons] at hlen
    have hne : inc s.params.counterOverflow s.bitcnt ≠ 8#16 := fun h => by
      rw [h, BitVec.toNat_ofNat] at hinc; omega
    have hbits : (countBit (nrziPrelude (s.rawOf d) s)).bitcnt.toNat = s.bitcnt.toNat + 1 := hinc
    obtain ⟨t, hfeed, hstart, hwin⟩ := ih e (s := countBit (nrziPrelude (s.rawOf d) s)) hd (by omega)
      (inc_toNat _ _ (by omega))
    exact ⟨t, (QuietFeed.single (command_prefetch hd _ hne)).append hfeed, hstart, by simpa using hwin⟩

end Sys2Proof.Machine
end

section
/-! What the Frame Assembler has yet to read (42_frame_assembler.md R131), and where the flag stands in a stuffed frame. -/

namespace Sys2Proof.Machine

/-- The bits the Frame Assembler has not read: the eight newest of the window, and those that still come. -/
def unread (w : BitVec 16) (rest : List Bool) : List Bool := (lsbBits w).drop 8 ++ rest

theorem length_unread (w : BitVec 16) (rest : List Bool) : (unread w rest).length = 8 + rest.length := by
  simp [unread]

/-- A bit that comes pushes the assembler input out of the window. -/
theorem unread_cons (w : BitVec 16) (x : Bool) (rest : List Bool) :
    unread w (x :: rest) = w.getLsbD 8 :: unread (shiftWindow w x) rest := by
  have hlen : (lsbBits w).tail.length = 15 := by simp
  have hhead : (lsbBits w).drop 8 = w.getLsbD 8 :: (lsbBits w).drop 9 := by
    rw [List.drop_eq_getElem_cons (by simp), getElem_lsbBits]
  rw [unread, unread, lsbBits_shiftWindow, List.drop_append_of_le_length (by omega), List.drop_tail, hhead,
    List.cons_append, List.append_assoc, List.singleton_append]

theorem unread_foldl_shiftWindow (w : BitVec 16) {ds : List Bool} (hds : ds.length = 8) (rest : List Bool) :
    unread (ds.foldl shiftWindow w) rest = ds ++ rest := by
  rw [unread, lsbBits_foldl_shiftWindow, hds, List.drop_drop, List.drop_left' (length_lsbBits w)]

theorem endFlagSeen_iff_unread (w : BitVec 16) (rest : List Bool) : EndFlagSeen w ↔ flagBits <+: unread w rest := by
  have hlen : ((lsbBits w).drop 8).length = flagBits.length := by simp [flagBits]
  rw [endFlagSeen_iff, List.prefix_iff_eq_take, unread, List.take_left' hlen]
  exact eq_comm

/-- Stuffing leaves no six 1s in a row, those before it counted (30_encoding.md R81). -/
theorem not_six_ones_prefix_stuffed (bs : List Bool) {ones : Nat} (h : ones ≤ 4) :
    ¬ List.replicate (6 - ones) true <+: stuffFrom ones bs ++ flagBits := by
  induction bs generalizing ones with
  | nil => rw [show 6 - ones = (5 - ones) + 1 by omega, List.replicate_succ]; simp [stuffFrom, flagBits]
  | cons b bs ih =>
    cases b with
    | false => rw [show 6 - ones = (5 - ones) + 1 by omega, List.replicate_succ]; simp [stuffFrom]
    | true =>
      by_cases hfive : ones + 1 = 5
      · obtain rfl : ones = 4 := by omega
        simp [stuffFrom]
      · have hrest := ih (ones := ones + 1) (by omega)
        rw [show 6 - ones = (6 - (ones + 1)) + 1 by omega, List.replicate_succ, stuffFrom, if_neg hfive]
        simpa using hrest

theorem not_flag_prefix_zero_stuffed (bs : List Bool) : ¬ flagBits <+: false :: (stuffFrom 0 bs ++ flagBits) := by
  intro h
  have hones : List.replicate 6 true ++ [false] <+: stuffFrom 0 bs ++ flagBits := (List.cons_prefix_cons.mp h).2
  exact not_six_ones_prefix_stuffed bs (Nat.zero_le 4) ((List.prefix_append _ _).trans hones)

/-- In a stuffed frame the end flag stands after the last bit and nowhere else. -/
theorem not_flag_prefix_stuffed {ones : Nat} (b : Bool) (bs : List Bool) :
    ¬ flagBits <+: stuffFrom ones (b :: bs) ++ flagBits := by
  cases b with
  | false => exact not_flag_prefix_zero_stuffed bs
  | true => rw [stuffFrom]; split <;> simp [flagBits]

theorem endFlagTest_of_not_flag {s : State} {rest : List Bool} (h : ¬ flagBits <+: unread s.win rest) :
    endFlagTest s = s :=
  if_neg ((endFlagSeen_iff_unread s.win rest).not.mpr h)

theorem endFlagTest_commit {s : State} {rest : List Bool} (h : flagBits <+: unread s.win rest)
    (hcrc : s.crc = Config.crcResidue) : endFlagTest s = exitToReset .commit s := by
  rw [endFlagTest, if_pos ((endFlagSeen_iff_unread s.win rest).mpr h), if_pos hcrc]

end Sys2Proof.Machine
end

section
/-! A frame under way: what is assembled of it and what is still to read, kept by every bit up to the end flag. -/

namespace Sys2Proof.Machine

theorem length_bytesBits (bs : List Byte) : (bytesBits bs).length = 8 * bs.length := by
  induction bs with
  | nil => rfl
  | cons b bs ih =>
    rw [bytesBits, List.flatMap_cons, List.length_append, length_byteBits, ← bytesBits, ih, List.length_cons]; omega

/-- Bytes are known by their bits, and fewer than eight further bits make no byte. -/
theorem bytes_eq_of_bits {as bs : List Byte} {tail : List Bool} (htail : tail.length < 8)
    (h : bytesBits as ++ tail = bytesBits bs) : as = bs := by
  induction as generalizing bs with
  | nil =>
    have hlen := congrArg List.length h
    rw [List.length_append, length_bytesBits, length_bytesBits, List.length_nil] at hlen
    exact (List.length_eq_zero_iff.mp (by omega)).symm
  | cons a as ih =>
    cases bs with
    | nil => simp [bytesBits, byteBits, lsbBits] at h
    | cons b bs =>
      simp only [bytesBits, List.flatMap_cons, List.append_assoc] at h
      obtain ⟨hbyte, hrest⟩ := List.append_inj h (by simp)
      rw [lsbBits_injective hbyte, ih hrest]

/-- The bytes of a frame that the block commits: a valid CRC, within the ceiling, the ceiling within BITCNT. -/
structure Committable (p : Params) (frame : List Byte) : Prop where
  wf : p.wf = true
  fits : 8 * frame.length ≤ p.maxFrameBits
  crc : crcBits Config.crcSeed (bytesBits frame) = Config.crcResidue

/-- The block has received a part of `frame` since `s₀`: it has appended `bytes` and counted the bits after them, and the
bits `todo` are to be assembled. -/
structure MidFrame (s₀ : State) (frame : List Byte) (s : State) (bytes : List Byte) (todo : List Bool) : Prop where
  dstate : s.dstate = .receiving
  events : s.events = s₀.events ++ bytes.map Event.append
  chan : s.chan = s₀.chan
  lasterr : s.lasterr = s₀.lasterr
  params : s.params = s₀.params
  counts : CountsFrame s bytes
  bits : bytesBits bytes ++ s.partialBits ++ todo = bytesBits frame

theorem FrameStart.midFrame {s : State} (h : FrameStart s) (frame : List Byte) :
    MidFrame s frame s [] (bytesBits frame) where
  dstate := h.dstate
  events := (List.append_nil _).symm
  chan := rfl
  lasterr := rfl
  params := rfl
  counts := .start h.crc h.bytecnt h.bitcnt
  bits := by rw [State.partialBits_of_bytecnt_zero h.bytecnt]; rfl

section
variable {s₀ s : State} {frame bytes : List Byte} {todo : List Bool}

theorem MidFrame.bitcnt_eq (h : MidFrame s₀ frame s bytes todo) (hwf : s₀.params.wf = true) :
    s.bitcnt.toNat + todo.length = 8 * frame.length := by
  have hlen := congrArg List.length h.bits
  rw [List.length_append, List.length_append, length_bytesBits, length_bytesBits, s.length_partialBits] at hlen
  rw [h.counts.bitcnt_eq (h.params ▸ hwf)]; omega

/-- With nothing left to read the appended bytes are the frame, and CRC holds its residue. -/
theorem MidFrame.complete (h : MidFrame s₀ frame s bytes []) (hframe : Committable s₀.params frame) :
    bytes = frame ∧ s.crc = Config.crcResidue := by
  have hbits := h.bits
  rw [List.append_nil] at hbits
  refine ⟨bytes_eq_of_bits ?_ hbits, ?_⟩
  · rw [s.length_partialBits]; exact s.bytecnt.isLt
  · rw [h.counts.crc_eq, hbits, hframe.crc]

/-- Steps 2 to 5 of BIT.RECEIVE on the next bit of the frame (42_frame_assembler.md R133 to R137). -/
theorem MidFrame.dataState (h : MidFrame s₀ frame s bytes (s.win.getLsbD 8 :: todo)) (raw : Bool)
    (hb : s.bitcnt.toNat ≤ s.params.maxFrameBits) :
    MidFrame s₀ frame (dataState raw s) (bytesAfterBit s bytes) todo where
  dstate := by rw [dataState_dstate, h.dstate]
  events := by
    rw [dataState_events, h.events, bytesAfterBit, List.append_assoc]
    split <;> simp
  chan := by rw [dataState_chan, h.chan]
  lasterr := by rw [dataState_lasterr, h.lasterr]
  params := by rw [dataState_params, h.params]
  counts := h.counts.dataState raw hb
  bits := by rw [dataState_frameBits, List.append_assoc, List.singleton_append, h.bits]

/-- A stuff bit writes RUN and nothing of the frame (42_frame_assembler.md R132). -/
theorem MidFrame.dropStuff (h : MidFrame s₀ frame s bytes todo) (raw : Bool) :
    MidFrame s₀ frame { nrziPrelude raw s with run := 0#3 } bytes todo :=
  ⟨h.dstate, h.events, h.chan, h.lasterr, h.params, ⟨h.counts.crc_eq, h.counts.bitcnt_eq⟩, h.bits⟩

theorem command_receive (hd : s.dstate = .receiving) (raw : Bool) :
    command (bitWord raw) s = execBitReceive raw s :=
  command_bitWord (i := .bitReceive raw) (by rw [hd]; rfl)

theorem execBitReceive_data {raw : Bool} (hr : s.run ≠ 5#3)
    (hb : (inc s.params.counterOverflow s.bitcnt).toNat ≤ s.params.maxFrameBits) :
    execBitReceive raw s = .next (endFlagTest (Machine.dataState raw s)) := by
  have hbits : (countBit (flushByte (takeBit (s.win.getLsbD 8) (nrziPrelude raw s)))).bitcnt =
      inc s.params.counterOverflow s.bitcnt := dataState_bitcnt raw s
  rcases execBitReceive_cases raw s with ⟨h, _⟩ | ⟨h, _⟩ | ⟨_, h, _⟩ | ⟨_, _, h⟩
  · exact absurd h hr
  · exact absurd h hr
  · rw [hbits] at h; omega
  · exact h

theorem execBitReceive_stuffZero {raw : Bool} (hr : s.run = 5#3) (ha : s.win.getLsbD 8 = false) :
    execBitReceive raw s = .next (endFlagTest { nrziPrelude raw s with run := 0#3 }) := by
  rcases execBitReceive_cases raw s with ⟨_, h, _⟩ | ⟨_, _, h⟩ | ⟨h, _⟩ | ⟨h, _⟩
  · rw [ha] at h; cases h
  · exact h
  · exact absurd hr h
  · exact absurd hr h

theorem exists_cons_of_unread {w : BitVec 16} {rest l : List Bool} {a : Bool}
    (h : unread w rest = a :: (l ++ flagBits)) : ∃ x rest', rest = x :: rest' := by
  have hlen := congrArg List.length h
  rw [length_unread, List.length_cons, List.length_append, show flagBits.length = 8 from rfl] at hlen
  exact List.exists_cons_of_length_pos (by omega)

/-- The next bit to read is one of the frame: it is assembled, and RUN counts it. -/
theorem MidFrame.feed_data {a : Bool} {l rest : List Bool} (h : MidFrame s₀ frame s bytes (a :: todo))
    (hframe : Committable s₀.params frame) (hrun : s.run.toNat ≤ 4) (hu : unread s.win rest = a :: (l ++ flagBits)) :
    ∃ t bytes' rest', feed rest s = feed rest' (endFlagTest t) ∧ MidFrame s₀ frame t bytes' todo ∧
      t.run.toNat = (if a then s.run.toNat + 1 else 0) ∧ unread t.win rest' = l ++ flagBits := by
  obtain ⟨x, rest', rfl⟩ := exists_cons_of_unread hu
  obtain ⟨rfl, hu'⟩ := List.cons.inj ((unread_cons _ _ _).symm.trans hu)
  have htotal := h.bitcnt_eq hframe.wf
  have hfits := hframe.fits
  have hmax := Params.maxFrameBits_lt_of_wf hframe.wf
  rw [List.length_cons] at htotal
  rw [← h.params] at hfits hmax
  have hr : s.run ≠ 5#3 := fun h5 => by rw [h5] at hrun; exact absurd hrun (by decide)
  have hb : (inc s.params.counterOverflow s.bitcnt).toNat ≤ s.params.maxFrameBits := by
    rw [inc_toNat _ _ (by omega)]; omega
  refine ⟨Machine.dataState (s.rawOf x) s, _, rest',
    feed_cons ((command_receive h.dstate _).trans (execBitReceive_data hr hb)) rest',
    h.dataState _ (by omega), ?_, by rw [dataState_win, decodedBit_rawOf, hu']⟩
  rw [dataState_run, trackRun_of_lt _ (by omega)]
  cases s.win.getLsbD 8 with
  | false => rfl
  | true => simp only [if_true]; bv_omega

/-- The next bit to read is a stuff bit: it is dropped. -/
theorem MidFrame.feed_stuff {l rest : List Bool} (h : MidFrame s₀ frame s bytes todo) (hrun : s.run.toNat = 5)
    (hu : unread s.win rest = false :: (l ++ flagBits)) :
    ∃ t rest', feed rest s = feed rest' (endFlagTest t) ∧ MidFrame s₀ frame t bytes todo ∧ t.run.toNat = 0 ∧
      unread t.win rest' = l ++ flagBits := by
  obtain ⟨x, rest', rfl⟩ := exists_cons_of_unread hu
  obtain ⟨ha, hu⟩ := List.cons.inj ((unread_cons _ _ _).symm.trans hu)
  have hr : s.run = 5#3 := BitVec.eq_of_toNat_eq hrun
  exact ⟨_, rest', feed_cons ((command_receive h.dstate _).trans (execBitReceive_stuffZero hr ha)) rest',
    h.dropStuff _, rfl, by simpa using hu⟩

/-- The rest of a stuffed frame and its flag commit the frame at the flag's last bit: by the bits still to assemble, each
of which is one bit to read, or two where the fifth 1 brings a stuff bit. -/
theorem MidFrame.feed_rest {rest : List Bool} {ones : Nat} (h : MidFrame s₀ frame s bytes todo)
    (hframe : Committable s₀.params frame) (hrun : s.run.toNat = ones) (hones : ones ≤ 4)
    (hu : unread s.win rest = stuffFrom ones todo ++ flagBits) :
    ∃ t, feed rest (endFlagTest s) = .next (exitToReset .commit t) ∧ MidFrame s₀ frame t frame [] := by
  induction todo generalizing s bytes rest ones with
  | nil =>
    obtain ⟨rfl, hcrc⟩ := h.complete hframe
    have hlen := congrArg List.length hu
    rw [length_unread, stuffFrom, List.nil_append, show flagBits.length = 8 from rfl] at hlen
    obtain rfl : rest = [] := List.length_eq_zero_iff.mp (by omega)
    exact ⟨s, by rw [endFlagTest_commit (by rw [hu]; exact List.prefix_rfl) hcrc]; rfl, h⟩
  | cons a todo ih =>
    rw [endFlagTest_of_not_flag (by rw [hu]; exact not_flag_prefix_stuffed a todo)]
    cases a with
    | false =>
      obtain ⟨t, bytes', rest', hfeed, hmid, hrun', hu'⟩ := h.feed_data hframe (hrun ▸ hones) hu
      obtain ⟨u, hrest⟩ := ih hmid hrun' (Nat.zero_le 4) hu'
      exact ⟨u, hfeed ▸ hrest⟩
    | true =>
      rw [stuffFrom] at hu
      by_cases hfive : ones + 1 = 5
      · rw [if_pos hfive] at hu
        obtain ⟨t, bytes', rest', hfeed, hmid, hrun', hu'⟩ :=
          h.feed_data (l := false :: stuffFrom 0 todo) hframe (hrun ▸ hones) hu
        rw [endFlagTest_of_not_flag (by rw [hu']; exact not_flag_prefix_zero_stuffed todo)] at hfeed
        obtain ⟨v, rest'', hfeed', hmid', hrun'', hu''⟩ := hmid.feed_stuff (by simpa [hrun, hfive] using hrun') hu'
        obtain ⟨u, hrest⟩ := ih hmid' hrun'' (Nat.zero_le 4) hu''
        exact ⟨u, (hfeed.trans hfeed') ▸ hrest⟩
      · rw [if_neg hfive] at hu
        obtain ⟨t, bytes', rest', hfeed, hmid, hrun', hu'⟩ := h.feed_data hframe (hrun ▸ hones) hu
        obtain ⟨u, hrest⟩ := ih hmid (by simpa [hrun] using hrun') (by omega) hu'
        exact ⟨u, hfeed ▸ hrest⟩

end

/-- From PREFETCH a stuffed frame and its flag are received and committed: the first eight bits fill the window, the rest
push the frame through it. -/
theorem feed_stuffedFrame {s : State} {frame : List Byte} (hd : s.dstate = .prefetch) (hb : s.bitcnt = 0#16)
    (hne : frame ≠ []) (hframe : Committable s.params frame) :
    ∃ t, feed (stuffFrom 0 (bytesBits frame) ++ flagBits) s = .next (exitToReset .commit t) ∧
      t.events = s.events ++ frame.map Event.append ∧ t.chan = s.chan ∧ t.lasterr = s.lasterr := by
  generalize hbits : stuffFrom 0 (bytesBits frame) ++ flagBits = bits
  have hlen : (bits.take 8).length = 8 := by
    rw [List.length_take, ← hbits, List.length_append, show flagBits.length = 8 from rfl]; omega
  obtain ⟨d, ds, hfirst⟩ := List.exists_cons_of_length_pos (l := bits.take 8) (by omega)
  rw [hfirst] at hlen
  have hcut : bits = (d :: ds) ++ bits.drop 8 := by rw [← hfirst, List.take_append_drop]
  obtain ⟨t, hfeed, hstart, hwin⟩ := quietFeed_prefetch d ds hd (by rw [hb]; simpa using hlen)
  have hu : unread t.win (bits.drop 8) = stuffFrom 0 (bytesBits frame) ++ flagBits := by
    rw [hwin, unread_foldl_shiftWindow _ hlen, ← hcut, hbits]
  obtain ⟨u, hrest, hdone⟩ := (hstart.midFrame frame).feed_rest (hfeed.params ▸ hframe) (by rw [hstart.run]; rfl)
    (Nat.zero_le 4) hu
  obtain ⟨b, bs, hcons⟩ := List.exists_cons_of_length_pos (l := bytesBits frame)
    (by rw [length_bytesBits]; have := List.length_pos_of_ne_nil hne; omega)
  rw [endFlagTest_of_not_flag (by rw [hu, hcons]; exact not_flag_prefix_stuffed b bs)] at hrest
  refine ⟨u, by rw [hcut, feed_append hfeed.feed_eq, hrest], ?_, ?_, ?_⟩
  · rw [hdone.events, hfeed.events]
  · rw [hdone.chan, hfeed.chan]
  · rw [hdone.lasterr, hfeed.lasterr]

theorem length_fcsBytes (bs : List Byte) : (fcsBytes bs).length = 2 := rfl

/-- Settles O56: the Reset step opens the attempt, the preamble and its flag lead to PREFETCH, and the stuffed payload with
its frame check sequence and the end flag are received and committed. -/
theorem aFrameThatIsSentIsReceivedAndCommitted : Obligations.AFrameThatIsSentIsReceivedAndCommitted := by
  intro s d f n bs hd hwf hmode htimeout hn hlong hfits
  have hopen := command_bitReset hd (s.rawOf d)
  have hfirst := inc_toNat s.params.counterOverflow 0#16 (by decide)
  obtain ⟨t, hpreamble, hfound, hbits⟩ := quietFeed_preamble_flag (f := f)
    (s := resetStep (nrziPrelude (s.rawOf d) s)) hn ⟨rfl, rfl⟩ (hfirst.trans_le htimeout) hwf hmode hlong
  have hframe : Committable t.params (bs ++ fcsBytes bs) :=
    { wf := hpreamble.params ▸ hwf
      fits := by rw [hpreamble.params, List.length_append, length_fcsBytes]; exact hfits
      crc := crcBits_payload_fcs bs }
  obtain ⟨u, hreceived, hevents, hchan, hlasterr⟩ := feed_stuffedFrame hfound hbits (by simp [fcsBytes]) hframe
  refine ⟨exitToReset .commit u, ?_, rfl, ?_, ?_, ?_⟩
  · rw [frameBits, List.append_assoc, ← List.append_assoc, feed_cons hopen, feed_append hpreamble.feed_eq]
    exact hreceived
  · rw [exitToReset_chan, hchan, hpreamble.chan]; rfl
  · rw [exitToReset_lasterr, hlasterr, hpreamble.lasterr]; rfl
  · rw [exitToReset_events, hevents, hchan, hpreamble.events, hpreamble.chan]
    simp [packetEvent]

end Sys2Proof.Machine
end

section
/-! The Frame Assembler's operation, one equation per branch (42_frame_assembler.md R132 to R139). -/

namespace Sys2Proof.Machine

/-- A destuffed 0 ends the run of ones, whatever RUN held (42_frame_assembler.md R134). -/
theorem trackRun_false (s : State) : trackRun false s = { s with run := 0#3 } := rfl

/-- A destuffed 1 counts in RUN while RUN + 1 fits it (42_frame_assembler.md R134). -/
theorem trackRun_true_run_toNat {s : State} (h : s.run.toNat < 7) :
    (trackRun true s).run.toNat = s.run.toNat + 1 := by
  rw [trackRun_of_lt true h, if_pos rfl]
  bv_omega

theorem trackRun_draws_of_lt {s : State} (a : Bool) (h : s.run.toNat < 7) : (trackRun a s).draws = s.draws := by
  rw [trackRun_of_lt a h]

theorem endFlagTest_of_ne {s : State} (h : newestByte s.win ≠ 0x7E#8) : endFlagTest s = s := if_neg h

theorem endFlagTest_of_residue {s : State} (h : newestByte s.win = 0x7E#8) (hcrc : s.crc = 0xF0B8#16) :
    endFlagTest s = exitToReset .commit s :=
  (if_pos h).trans (if_pos hcrc)

theorem endFlagTest_of_crc_ne {s : State} (h : newestByte s.win = 0x7E#8) (hcrc : s.crc ≠ 0xF0B8#16) :
    endFlagTest s = exitToReset .crcMismatch s :=
  (if_pos h).trans (if_neg hcrc)

theorem execBitReceive_stuffOne {s : State} {raw : Bool} (hr : s.run = 5#3) (ha : s.win.getLsbD 8 = true) :
    execBitReceive raw s = .next (exitToReset .stuffBitViolation (nrziPrelude raw s)) := by
  rcases execBitReceive_cases raw s with ⟨_, _, h⟩ | ⟨_, h, _⟩ | ⟨h, _⟩ | ⟨h, _⟩
  · exact h
  · exact absurd (ha.symm.trans h) (by decide)
  · exact absurd hr h
  · exact absurd hr h

theorem execBitReceive_tooLong {s : State} {raw : Bool} (hr : s.run ≠ 5#3)
    (hb : (inc s.params.counterOverflow s.bitcnt).toNat > s.params.maxFrameBits) :
    execBitReceive raw s = .next (exitToReset .noEndFlag (dataState raw s)) := by
  rcases execBitReceive_cases raw s with ⟨h, _⟩ | ⟨h, _⟩ | ⟨_, _, h⟩ | ⟨_, h, _⟩
  · exact absurd h hr
  · exact absurd h hr
  · exact h
  · have hle : (dataState raw s).bitcnt.toNat ≤ s.params.maxFrameBits := h
    rw [dataState_bitcnt] at hle; omega

/-- The model's BYTE, RUN and draw counter after a destuffed bit are values as 42_frame_assembler.md R133 and R134 ask, so
an existence statement about such values holds once it holds of the model's. -/
theorem exists_assembled {s : State} {P : Byte → BitVec 3 → Nat → Prop}
    (h : P (shiftByte s.byte (s.win.getLsbD 8)) (trackRun (s.win.getLsbD 8) s).run
      (trackRun (s.win.getLsbD 8) s).draws) :
    ∃ (b : Byte) (r : BitVec 3) (n : Nat),
      (b.getLsbD 7 = s.win.getLsbD 8 ∧ ∀ i, i < 7 → b.getLsbD i = s.byte.getLsbD (i + 1)) ∧
      (s.win.getLsbD 8 = false → r = 0#3) ∧
      (s.win.getLsbD 8 = true → s.run.toNat < 7 → r.toNat = s.run.toNat + 1) ∧
      (s.run.toNat < 7 → n = s.draws) ∧ P b r n := by
  refine ⟨_, _, _, ⟨?_, fun i hi => ?_⟩, fun ha => ?_, fun ha hrun => ?_, trackRun_draws_of_lt _, h⟩
  · rw [shiftByte_getLsbD, if_pos rfl]
  · rw [shiftByte_getLsbD, if_neg (Nat.ne_of_lt hi)]
  · rw [ha, trackRun_false]
  · rw [ha, trackRun_true_run_toNat hrun]

/-- Settles O32: a 1 exits, and after a 0 the end-flag test goes one of its three ways; clearing RUN left the window and
the CRC as the prelude gave them. -/
theorem stuffBitIsDroppedOrAborts : Obligations.StuffBitIsDroppedOrAborts := by
  intro s raw hr
  refine ⟨fun ha => ?_, fun ha hflag => ?_, fun ha hflag hcrc => ?_, fun ha hflag hcrc => ?_⟩
  · rw [exec, execBitReceive_stuffOne hr ha, exitToReset_eq]; rfl
  · rw [exec, execBitReceive_stuffZero hr ha, endFlagTest_of_ne (by exact hflag)]
  · rw [exec, execBitReceive_stuffZero hr ha, endFlagTest_of_residue (by exact hflag) (by exact hcrc),
      exitToReset_eq]; rfl
  · rw [exec, execBitReceive_stuffZero hr ha, endFlagTest_of_crc_ne (by exact hflag) (by exact hcrc),
      exitToReset_eq]; rfl

/-- Settles O33: within the ceiling and without a flag the operation ends in the assembled state. -/
theorem dataBitIsAssembledCountedAndFlushed : Obligations.DataBitIsAssembledCountedAndFlushed := by
  intro s raw hr hb hflag
  refine exists_assembled ?_
  rw [exec, execBitReceive_data hr hb, endFlagTest_of_ne (by rwa [dataState_win]), dataState_eq]

/-- Settles O34: past the ceiling the assembled state exits, and no flag is looked for. -/
theorem bitPastTheCeilingAbortsBeforeTheFlagTest : Obligations.BitPastTheCeilingAbortsBeforeTheFlagTest := by
  intro s raw hr hb
  refine exists_assembled ?_
  rw [exec, execBitReceive_tooLong hr hb, exitToReset_eq, dataState_eq]; rfl

/-- Settles O35: at the flag the assembled state exits, by whether the CRC with this bit in it is the residue. -/
theorem endFlagCommitsExactlyOnTheResidue : Obligations.EndFlagCommitsExactlyOnTheResidue := by
  intro s raw hr hb hflag
  have hwin : newestByte (dataState raw s).win = 0x7E#8 := by rwa [dataState_win]
  refine exists_assembled ⟨fun hcrc => ?_, fun hcrc => ?_⟩
  · rw [exec, execBitReceive_data hr hb, endFlagTest_of_residue hwin (by rwa [dataState_crc]), exitToReset_eq,
      dataState_eq]; rfl
  · rw [exec, execBitReceive_data hr hb, endFlagTest_of_crc_ne hwin (by rwa [dataState_crc]), exitToReset_eq,
      dataState_eq]; rfl

end Sys2Proof.Machine
end

section
/-! One command at a time: the operation a command word runs (43_packet_handler.md R160, R167 to R172), and a list of
commands taken command by command. -/

namespace Sys2Proof.Machine

theorem command_enable (s : State) : command Control.enable.word s = exec .enable s := command_eq _ s

theorem command_disable (s : State) : command Control.disable.word s = exec .disable s := command_eq _ s

theorem command_readState (s : State) : command Control.readState.word s = exec .readState s := command_eq _ s

theorem command_readError (s : State) : command Control.readError.word s = exec .readError s := command_eq _ s

theorem command_bitWord_unassigned {s : State} (h : 5 ≤ s.dstate.code.toNat) (raw : Bool) :
    command (bitWord raw) s = .refused (.bitInUnassignedState s.dstate) := by
  rw [command_eq, decodeCommand_bitWord, decodeBit_of_unassigned raw s.sstate h]; rfl

theorem exec_enable_of_off {s : State} (h : s.dstate = .off) : exec .enable s = .next { s with dstate := .reset } :=
  congrArg Host.Outcome.next (if_pos h)

theorem exec_enable_of_ne_off {s : State} (h : s.dstate ≠ .off) : exec .enable s = .next s :=
  congrArg Host.Outcome.next (if_neg h)

theorem runCommands_cons {w : Word} {s t : State} (h : command w s = .next t) (ws : List Word) :
    runCommands (w :: ws) s = runCommands ws t := by rw [runCommands, h]

/-- Settles O8: what `decodeBit` gives in each DSTATE, and in WAITING in each SSTATE. -/
theorem bitDispatchesOnTheStateThePreviousCommandLeft : Obligations.BitDispatchesOnTheStateThePreviousCommandLeft := by
  intro s raw
  refine ⟨fun hd => ?off, fun hd => ?reset, fun hd ht => ?sreset, fun hd ht => ?sawZero, fun hd ht => ?sawOne,
    fun hd ht => ?inFlag, fun hd => ?prefetch, fun hd => ?receiving, fun h => command_bitWord_unassigned h raw⟩
  case off | reset | prefetch | receiving => exact command_bitWord (by rw [hd]; rfl)
  case sreset | sawZero | sawOne | inFlag => exact command_waiting ⟨hd, ht⟩ rfl

/-- Settles O9: the decode procedure answers words 110 and 111 before it reads DSTATE and SSTATE. -/
theorem reservedWordsAreRefusedInEveryState : Obligations.ReservedWordsAreRefusedInEveryState := by
  rintro s w (rfl | rfl)
  · exact command_eq _ s
  · exact command_eq _ s

/-- Settles O10: codes 5 to 7 are not OFF, and only BIT is dispatched on DSTATE. -/
theorem unassignedStatesRefuseBitAndAnswerTheControlSurface :
    Obligations.UnassignedStatesRefuseBitAndAnswerTheControlSurface := by
  intro s h
  have hne : s.dstate ≠ .off := fun hoff => absurd (hoff ▸ h) (by decide)
  exact ⟨command_bitWord_unassigned h, (command_enable s).trans (exec_enable_of_ne_off hne), command_disable s,
    command_readState s, command_readError s⟩

end Sys2Proof.Machine
end

section
/-! The control surface (43_packet_handler.md R167 to R170). -/

namespace Sys2Proof.Machine

/-- Settles O20: a control word decodes without DSTATE, and ENABLE branches on OFF. -/
theorem enableLeavesOffAndOtherwiseDoesNothing : Obligations.EnableLeavesOffAndOtherwiseDoesNothing :=
  ⟨fun d t => decode_dispatchKey d t Control.enable.word, fun _ => ⟨exec_enable_of_off, exec_enable_of_ne_off⟩⟩

/-- Settles O21: a control word decodes without DSTATE, and DISABLE has no branch. -/
theorem disableWritesOffAndNothingElse : Obligations.DisableWritesOffAndNothingElse :=
  ⟨fun d t => decode_dispatchKey d t Control.disable.word, fun _ => rfl⟩

/-- Settles O22: the values returned are the codes of the two registers, one per name. -/
theorem readsReturnTheCodesAndChangeNothing : Obligations.ReadsReturnTheCodesAndChangeNothing := by
  refine ⟨fun d t => ⟨decode_dispatchKey d t Control.readState.word, decode_dispatchKey d t Control.readError.word⟩,
    fun s => ⟨⟨s.dstate.code, rfl, ?_, ?_, ?_, ?_, ?_⟩, s.lasterr.code, rfl, ?_, ?_, ?_, ?_⟩⟩
  all_goals intro h; rw [h]; rfl

/-- Settles O23: DISABLE and ENABLE emit nothing, and BEGIN of the Reset step replaces whatever packet is open. -/
theorem disableThenEnableDropsTheOpenPacket : Obligations.DisableThenEnableDropsTheOpenPacket := by
  intro s k raw hk
  have henable := (command_enable { s with dstate := .off }).trans (exec_enable_of_off rfl)
  have hbit := command_bitReset (s := { s with dstate := .reset }) rfl raw
  refine ⟨resetStep (nrziPrelude raw { s with dstate := .reset }), ?_, rfl, rfl, rfl,
    State.sink_of_events (resetStep_events _) hk⟩
  rw [runCommands_cons (command_disable s), runCommands_cons henable, runCommands_cons hbit, runCommands]

end Sys2Proof.Machine
end

section
/-! The Packet Handler's own BIT operations and ExitToReset (43_packet_handler.md R161 to R165). -/

namespace Sys2Proof.Machine

theorem decode_bitWord (d : DState) (t : SState) (raw : Bool) :
    decode (dispatchKey d t (bitWord raw)) = decodeBit raw d t := by
  rw [decode_dispatchKey, decodeCommand_bitWord]

theorem command_bitOff {s : State} (h : s.dstate = .off) (raw : Bool) :
    command (bitWord raw) s = .next (nrziPrelude raw s) :=
  command_bitWord (i := .bitOff raw) (by rw [h]; rfl)

/-- In OFF a run of BIT commands leaves the last raw bit and some window, and all else as it was. -/
theorem runCommands_off (rs : List Bool) {s : State} (h : s.dstate = .off) :
    ∃ v, runCommands (rs.map bitWord) s = .next { s with rawprev := rs.getLastD s.rawprev, win := v } := by
  induction rs generalizing s with
  | nil => exact ⟨s.win, rfl⟩
  | cons r rs ih =>
    obtain ⟨v, hv⟩ := ih (s := nrziPrelude r s) h
    refine ⟨v, ?_⟩
    rw [List.map_cons, runCommands_cons (command_bitOff h r), hv, List.getLastD_cons]
    rfl

/-- Settles O16: BIT.OFF is the prelude and nothing more, so by induction on the bits. -/
theorem offOnlyTracksTheLine : Obligations.OffOnlyTracksTheLine := by
  refine ⟨decode_bitWord .off, fun s raw => ?_, fun s rs => runCommands_off rs⟩
  refine ⟨shiftWindow s.win (s.decodedBit raw), shiftWindow_decodedBit_newest s raw, fun i hi => ?_, rfl⟩
  rw [shiftWindow_getLsbD, if_neg (Nat.ne_of_lt hi)]

/-- Of the shifted window the Reset step keeps the bit shifted in (43_packet_handler.md R162). -/
theorem shiftWindow_and_newest (w : BitVec 16) (d : Bool) :
    shiftWindow w d &&& 0x8000#16 = if d then 0x8000#16 else 0x0000#16 := by
  have hmask : (if d then 0x8000#16 else 0x0000#16) = (if d then 0xFFFF#16 else 0x0000#16) &&& 0x8000#16 := by
    cases d <;> rfl
  refine BitVec.eq_of_getLsbD_eq fun i _ => ?_
  rw [hmask, keepNewest_getLsbD, keepNewest_getLsbD, shiftWindow_getLsbD]
  by_cases h : i = 15
  · subst h; cases d <;> rfl
  · rw [decide_eq_false h, Bool.false_and, Bool.false_and]

/-- Settles O17: the Reset step writes constants, except in WIN, where it keeps the new bit. -/
theorem resetStepOpensAnAttempt : Obligations.ResetStepOpensAnAttempt := by
  refine ⟨decode_bitWord .reset, fun s raw => ?_⟩
  have hwin : (if s.rawprev = raw then 0x8000#16 else 0x0000#16) =
      shiftWindow s.win (s.decodedBit raw) &&& 0x8000#16 := by
    simp only [shiftWindow_and_newest, decodedBit_eq, beq_iff_eq]
  rw [hwin]
  rfl

/-- In PREFETCH the count reaches PREFETCH_BITS from 7 and from no other value (43_packet_handler.md R163). -/
theorem inc_eq_eight_iff (mode : CounterOverflow) (c : BitVec 16) : inc mode c = 8#16 ↔ c.toNat = 7 := by
  by_cases hmax : c.toNat < 65535
  · rw [← BitVec.toNat_inj, inc_toNat mode c hmax, BitVec.toNat_ofNat]; omega
  · obtain rfl : c = BitVec.allOnes 16 := eq_allOnes_of_toNat c (by omega)
    cases mode <;> decide

/-- Settles O18: the two branches of BIT.PREFETCH, by `inc_eq_eight_iff`. -/
theorem prefetchCountsEightBitsThenStartsReceiving : Obligations.PrefetchCountsEightBitsThenStartsReceiving := by
  refine ⟨decode_bitWord .prefetch, fun s raw => ⟨fun h7 => ?_, fun h7 => ?_, inc_toNat _ _⟩⟩
  · exact congrArg Host.Outcome.next (if_pos ((inc_eq_eight_iff _ _).mpr h7))
  · exact congrArg Host.Outcome.next (if_neg ((inc_eq_eight_iff _ _).not.mpr h7))

/-- Settles O19: `exitToReset_eq` with what each outcome records and emits. -/
theorem exitToResetDoesWhatEachOutcomeSays : Obligations.ExitToResetDoesWhatEachOutcomeSays :=
  fun s => ⟨exitToReset_eq .commit s, exitToReset_eq .crcMismatch s, exitToReset_eq .stuffBitViolation s,
    exitToReset_eq .noEndFlag s, exitToReset_eq .syncTimeout s⟩

end Sys2Proof.Machine
end

section
/-! CHAN and the committed packets over all commands (43_packet_handler.md R164, R166). -/

namespace Sys2Proof.Machine

/-- Settles O44: of the ways a command touches the outputs only the end of an attempt emits HOP, and it flips CHAN. -/
theorem channelFlipsExactlyWithHop : Obligations.ChannelFlipsExactlyWithHop := by
  intro s t w h
  cases command_outputs h with
  | silent he hc => exact ⟨[], by rw [he, List.append_nil], .inr ⟨hc, by simp⟩⟩
  | opened _ _ _ he hc => exact ⟨_, he, .inr ⟨hc, by simp⟩⟩
  | appended b _ _ _ he hc => exact ⟨_, he, .inr ⟨hc, by simp⟩⟩
  | ended o pre _ hd' _ _ he hc =>
    exact ⟨pre ++ [packetEvent o, .hop (!s.chan)], by rw [he, List.append_assoc], .inl ⟨hc, by simp [hc], hd'⟩⟩

/-- What every step keeps holds at the end of a run if it held at the start. -/
theorem run_keeps {M : Host.Core} {P : M.State → Prop} (hstep : ∀ s t, P s → M.step s = .next t → P t) {n : Nat}
    {s t : M.State} (hs : P s) (h : M.run n s = .next t) : P t := by
  induction n generalizing s with
  | zero => cases h; exact hs
  | succ n ih =>
    rw [Host.Core.run] at h
    split at h
    · exact ih (hstep s _ hs ‹_›) h
    · cases h
    · cases h

/-- Settles O53: the invariant of registers and outputs, with the parameters, holds at power-on and at every step, and it
says that the committed packets are valid. -/
theorem onlyValidPacketsAreEverCommitted : Obligations.OnlyValidPacketsAreEverCommitted := by
  intro p is n t hrun
  have hkeep : ∀ s t : State, Inv s ∧ s.params = p → step s = .next t → Inv t ∧ t.params = p := by
    rintro s t ⟨hinv, hp⟩ hstep
    exact ⟨everyStepKeepsRegistersAndOutputsConsistent s t hinv hstep,
      (stepsKeepTheParametersAndTheHistory s t hstep).1.trans hp⟩
  obtain ⟨hinv, hp⟩ := run_keeps (M := core) hkeep ⟨powerOn_inv p is, rfl⟩ hrun
  obtain ⟨k, hk, hok⟩ := hinv.outputs.sink_ok
  exact ⟨k, hk, hp ▸ hok.committed⟩

end Sys2Proof.Machine
end

section
/-! The transitions of DSTATE (43_packet_handler.md R173), by the DSTATE a command finds. -/

namespace Sys2Proof.Machine

section

variable {s t : State} {w : Word}

theorem dstate_of_enable (h : command Control.enable.word s = .next t) :
    t.dstate = if s.dstate = .off then .reset else s.dstate := by
  rw [command_enable] at h
  by_cases hoff : s.dstate = .off
  · rw [exec_enable_of_off hoff] at h; cases h; rw [if_pos hoff]
  · rw [exec_enable_of_ne_off hoff] at h; cases h; rw [if_neg hoff]

theorem dstate_of_disable (h : command Control.disable.word s = .next t) : t.dstate = .off := by
  rw [command_disable] at h; cases h; rfl

theorem dstate_of_readState (h : command Control.readState.word s = .next t) : t.dstate = s.dstate := by
  rw [command_readState] at h; cases h; rfl

theorem dstate_of_readError (h : command Control.readError.word s = .next t) : t.dstate = s.dstate := by
  rw [command_readError] at h; cases h; rfl

theorem exists_raw_of_isBitWord (hw : isBitWord w = true) : ∃ raw, w = bitWord raw := by
  rcases word_cases w with h | ⟨c, rfl⟩ | rfl | rfl
  · exact h
  · simp at hw
  · exact absurd hw (by decide)
  · exact absurd hw (by decide)

theorem dstate_of_bitPrefetch {raw : Bool} (hd : s.dstate = .prefetch) (h : command (bitWord raw) s = .next t) :
    t.dstate = if s.bitcnt = 7#16 then .receiving else .prefetch := by
  have hseven : inc s.params.counterOverflow s.bitcnt = 8#16 ↔ s.bitcnt = 7#16 :=
    (inc_eq_eight_iff _ _).trans (BitVec.toNat_inj (y := 7#16))
  by_cases h7 : s.bitcnt = 7#16
  · rw [command_startFrame hd raw (hseven.mpr h7)] at h; cases h; rw [if_pos h7]
  · rw [command_prefetch hd raw (hseven.not.mpr h7)] at h; cases h; rw [if_neg h7]; exact hd

/-- The bit that ends the flag: its last 0 (41_synchronizer.md R114). -/
def EndsFlag (s : State) (w : Word) : Prop := s.sstate = .inFlag ∧ s.scount = 1#8 ∧ s.rawprev ≠ w.getLsbD 0

/-- The bit past SYNC_TIMEOUT in SRESET (41_synchronizer.md R111). -/
def TimesOut (s : State) : Prop :=
  s.sstate = .sreset ∧ (inc s.params.counterOverflow s.bitcnt).toNat > s.params.syncTimeout

/-- The ways a BIT command in WAITING moves DSTATE. -/
inductive WaitingMove (s : State) (w : Word) (t : State) : Prop
  | stays (hd' : t.dstate = .waiting) (hflag : ¬ EndsFlag s w) (htimeout : ¬ TimesOut s)
  | found (hd' : t.dstate = .prefetch) (hflag : EndsFlag s w)
  | timeout (hd' : t.dstate = .reset) (htimeout : TimesOut s)

theorem not_endsFlag_of_ne (h : s.sstate ≠ .inFlag) : ¬ EndsFlag s w := fun hflag => h hflag.1

theorem not_timesOut_of_ne (h : s.sstate ≠ .sreset) : ¬ TimesOut s := fun htimeout => h htimeout.1

theorem Effect.waitingMove (e : Effect s w t) (hs : RegistersOk s) (hd : s.dstate = .waiting)
    (hw : isBitWord w = true) : WaitingMove s w t := by
  have hflag (raw : Bool) (ht : s.sstate = .inFlag) : (countFlagBit (syncPrelude raw s)).scount = 0#8 ↔ s.scount = 1#8 :=
    (countFlagBit_syncPrelude_eq_zero_iff raw (hs.flag_bits_left hd ht).1).trans (BitVec.toNat_inj (y := 1#8))
  cases e with
  | timeout _ _ ht h => exact .timeout rfl ⟨ht, h⟩
  | startRun _ _ ht h => exact .stays hd (not_endsFlag_of_ne (by simp [ht])) fun hto => Nat.not_lt.mpr h hto.2
  | extendToOne _ _ ht | extendToZero _ _ ht | enterFlagFromZero _ _ ht | enterFlagFromOne _ _ ht =>
    exact .stays hd (not_endsFlag_of_ne (by simp [ht])) (not_timesOut_of_ne (by simp [ht]))
  | runTooShort _ _ ht =>
    rcases ht with ⟨ht, _⟩ | ⟨ht, _⟩ <;>
      exact .stays hd (not_endsFlag_of_ne (by simp [ht])) (not_timesOut_of_ne (by simp [ht]))
  | flagBit raw _ ht hr _ =>
    exact .stays (by simpa using hd) (fun hend => hend.2.2 (by rw [bitWord_getLsbD, hr]))
      (not_timesOut_of_ne (by simp [ht]))
  | flagBroken raw _ ht h =>
    refine .stays (by simpa using hd) ?_ (not_timesOut_of_ne (by simp [ht]))
    rintro ⟨_, hone, hr⟩
    rw [bitWord_getLsbD] at hr
    rcases h with ⟨hne, _⟩ | ⟨_, hr'⟩
    · exact hne ((hflag raw ht).mpr hone)
    · exact hr hr'
  | found raw _ ht hr h => exact .found rfl ⟨ht, (hflag raw ht).mp h, by rwa [bitWord_getLsbD]⟩
  | enableFromOff | enableElsewhere | disable | readState | readError => simp at hw
  | off _ hd' | reset _ hd' | prefetch _ hd' | startFrame _ hd' | stuffViolation _ hd' | stuffDropped _ hd'
  | stuffDroppedAtFlag _ _ hd' | tooLong _ hd' | dataBit _ hd' | dataBitAtFlag _ _ hd' => simp [hd] at hd'

theorem WaitingMove.iffs (m : WaitingMove s w t) :
    (t.dstate = .prefetch ↔ EndsFlag s w) ∧ (t.dstate = .reset ↔ TimesOut s) ∧
      (t.dstate = .waiting ∨ t.dstate = .prefetch ∨ t.dstate = .reset) := by
  cases m with
  | stays hd' hflag htimeout => simp [hd', hflag, htimeout]
  | found hd' hflag =>
    have htimeout : ¬ TimesOut s := not_timesOut_of_ne (by simp [hflag.1])
    simp [hd', hflag, htimeout]
  | timeout hd' htimeout =>
    have hflag : ¬ EndsFlag s w := not_endsFlag_of_ne (by simp [htimeout.1])
    simp [hd', hflag, htimeout]

/-- In RECEIVING a BIT command stays, or it goes to RESET and flips CHAN. -/
theorem Effect.dstate_of_receiving (e : Effect s w t) (hd : s.dstate = .receiving) (hw : isBitWord w = true) :
    t.dstate = .receiving ∨ t.dstate = .reset ∧ t.chan = !s.chan := by
  cases e with
  | stuffDropped | dataBit => exact .inl (by simpa using hd)
  | stuffViolation | stuffDroppedAtFlag | tooLong | dataBitAtFlag => exact .inr ⟨rfl, by simp⟩
  | enableFromOff | enableElsewhere | disable | readState | readError => simp at hw
  | off _ hd' | reset _ hd' | timeout _ hd' | startRun _ hd' | extendToOne _ hd' | extendToZero _ hd'
  | enterFlagFromZero _ hd' | enterFlagFromOne _ hd' | runTooShort _ hd' | flagBit _ hd' | flagBroken _ hd'
  | found _ hd' | prefetch _ hd' | startFrame _ hd' => simp [hd] at hd'

/-- The events a command appends are known from the two histories. -/
theorem exists_appended_iff {es : List Event} (he : t.events = s.events ++ es) (P : List Event → Prop) :
    (∃ fs, t.events = s.events ++ fs ∧ P fs) ↔ P es := by
  simp [he]

/-- In RECEIVING a BIT command goes to RESET exactly when it ends the packet (42_frame_assembler.md R132, R137 to R139). -/
theorem dstate_of_bitReceive (hd : s.dstate = .receiving) (hw : isBitWord w = true) (h : command w s = .next t) :
    (t.dstate = .reset ↔ ∃ es, t.events = s.events ++ es ∧ (Event.commit ∈ es ∨ Event.discard ∈ es)) ∧
      (t.dstate = .reset ∨ t.dstate = .receiving) := by
  have hmove := (command_effect h).dstate_of_receiving hd hw
  refine ⟨?_, hmove.symm.imp_left And.left⟩
  cases command_outputs h with
  | silent he hc =>
    have hd' : t.dstate = .receiving := hmove.resolve_right fun hreset => by simp [hc] at hreset
    rw [exists_appended_iff (es := []) (by rw [he, List.append_nil])]
    simp [hd']
  | opened hd' => simp [hd] at hd'
  | appended b _ _ hd' he =>
    rw [exists_appended_iff he]
    simp [hd']
  | ended o pre _ hd' _ _ he =>
    rw [exists_appended_iff (he.trans (List.append_assoc ..))]
    rcases packetEvent_cases o with ho | ho <;> simp [hd', ho]

end

/-- Settles O46: the row of the table for each command word, and for a BIT word for each DSTATE. -/
theorem dstateMovesOnlyAsTheTransitionTableSays : Obligations.DstateMovesOnlyAsTheTransitionTableSays := by
  intro s t w hs h
  refine ⟨?enable, ?disable, ?reads, fun hw => ⟨fun hd => ?off, fun hd => ?reset,
    fun hd => ((command_effect h).waitingMove hs hd hw).iffs, fun hd => ?prefetch, fun hd => dstate_of_bitReceive hd hw h⟩⟩
  case enable => rintro rfl; exact dstate_of_enable h
  case disable => rintro rfl; exact dstate_of_disable h
  case reads =>
    rintro (rfl | rfl)
    · exact dstate_of_readState h
    · exact dstate_of_readError h
  all_goals obtain ⟨raw, rfl⟩ := exists_raw_of_isBitWord hw
  case off => rw [command_bitOff hd] at h; cases h; exact hd
  case reset => rw [command_bitReset hd] at h; cases h; rfl
  case prefetch => exact dstate_of_bitPrefetch hd h

end Sys2Proof.Machine
end

section
/-! The CRC family (44_crc.md): the byte-wise form from linearity, and error detection from injectivity of the step. -/

namespace Sys2Proof.Machine

/-! The byte-wise CRC (44_crc.md R195): of a register `c`, one part holds the incoming bits in its low places and shifts
them out; the other is stepped with zeros, as the table has it. -/

/-- A register fed its own low bits is shifted and nothing more: the polynomial never enters. -/
theorem crcBits_own_bits (c : BitVec 16) (k : Nat) : crcBits c ((List.range k).map c.getLsbD) = c >>> k := by
  induction k with
  | zero => simp [crcBits]
  | succ k ih =>
    have hlow : (c >>> k).getLsbD 0 = c.getLsbD k := by simp
    rw [List.range_succ, List.map_append, List.map_singleton, crcBits_concat, ih, ← hlow, crcStep_own_bit,
      ← BitVec.shiftRight_add]

/-- Linearity over a bit list: the bits may all be given to one part of the register, and zeros to the other. -/
theorem crcBits_xor (c z : BitVec 16) (bits : List Bool) :
    crcBits (c ^^^ z) bits = crcBits c (List.replicate bits.length false) ^^^ crcBits z bits := by
  induction bits generalizing c z with
  | nil => rfl
  | cons b bits ih =>
    have hstep : crcStep (c ^^^ z) b = crcStep c false ^^^ crcStep z b := by rw [← crcStep_xor, Bool.false_xor]
    calc crcBits (c ^^^ z) (b :: bits)
        = crcBits (crcStep c false ^^^ crcStep z b) bits := congrArg (crcBits · bits) hstep
      _ = crcBits (crcStep c false) (List.replicate bits.length false) ^^^ crcBits (crcStep z b) bits := ih ..

/-- The register with the table's index taken out: its low byte is the incoming byte, its high byte is unchanged. -/
def withLowByte (c : BitVec 16) (v : Byte) : BitVec 16 := ((c ^^^ v.setWidth 16).setWidth 8).setWidth 16 ^^^ c

theorem withLowByte_getLsbD (c : BitVec 16) (v : Byte) (i : Nat) :
    (withLowByte c v).getLsbD i = if i < 8 then v.getLsbD i else c.getLsbD i := by
  by_cases hi : i < 8
  · have hi' : i < 16 := by omega
    simp [withLowByte, hi, hi', Bool.xor_left_comm]
  · have hv : v.getLsbD i = false := BitVec.getLsbD_of_ge v i (by omega)
    simp [withLowByte, hi, hv]

theorem withLowByte_shiftRight (c : BitVec 16) (v : Byte) : withLowByte c v >>> 8 = c >>> 8 :=
  BitVec.eq_of_getLsbD_eq fun i _ => by simp [withLowByte_getLsbD]

theorem byteBits_eq_withLowByte (c : BitVec 16) (v : Byte) :
    byteBits v = (List.range 8).map (withLowByte c v).getLsbD :=
  List.map_congr_left fun i hi => by rw [withLowByte_getLsbD, if_pos (List.mem_range.mp hi)]

/-- Settles O40: the table's index and the register without it are stepped apart, the one with zeros, the other with
its own low bits. -/
theorem byteWiseCrcEqualsEightBitSteps : Obligations.ByteWiseCrcEqualsEightBitSteps := by
  intro c v
  let index := (c ^^^ v.setWidth 16).setWidth 8
  have hsplit : index.setWidth 16 ^^^ withLowByte c v = c := by rw [withLowByte, ← BitVec.xor_assoc]; simp [index]
  have hlow : crcBits (withLowByte c v) (byteBits v) = c >>> 8 := by
    rw [byteBits_eq_withLowByte c, crcBits_own_bits, withLowByte_shiftRight]
  calc crcByte c v
      = crcTable index ^^^ c >>> 8 := BitVec.xor_comm ..
    _ = crcBits (index.setWidth 16) (List.replicate (byteBits v).length false) ^^^
          crcBits (withLowByte c v) (byteBits v) := by rw [hlow, length_byteBits]; rfl
    _ = crcBits c (byteBits v) := by rw [← crcBits_xor, hsplit]

/-- Settles O41: the frame check sequence is the register's complement, whose bits shift the payload's register out. -/
theorem everyPayloadWithItsFcsLeavesTheResidue : Obligations.EveryPayloadWithItsFcsLeavesTheResidue :=
  crcBits_payload_fcs

/-! Error detection (44_crc.md R198): the polynomial's top bit tells whether it was added, so a step can be undone. -/

theorem crcStep_top_bit (c : BitVec 16) (b : Bool) : (crcStep c b).getLsbD 15 = (c.getLsbD 0 ^^ b) := by
  rw [crcStep_eq]
  cases c.getLsbD 0 ^^ b <;> simp [Config.crcPoly]

theorem low_bits_eq_of_crcStep_eq {c d : BitVec 16} {a b : Bool} (h : crcStep c a = crcStep d b) :
    (c.getLsbD 0 ^^ a) = (d.getLsbD 0 ^^ b) := by
  rw [← crcStep_top_bit, h, crcStep_top_bit]

theorem crcStep_injective (b : Bool) : Function.Injective (crcStep · b) := by
  intro c d (h : crcStep c b = crcStep d b)
  have hlow : c.getLsbD 0 = d.getLsbD 0 := Bool.xor_left_inj.mp (low_bits_eq_of_crcStep_eq h)
  have hshift : c >>> 1 = d >>> 1 := by
    rwa [crcStep_eq, crcStep_eq, hlow, BitVec.xor_left_inj] at h
  refine BitVec.eq_of_getLsbD_eq fun i _ => ?_
  cases i with
  | zero => exact hlow
  | succ i => simpa [Nat.add_comm] using congrArg (BitVec.getLsbD · i) hshift

theorem crcBits_injective (bits : List Bool) : Function.Injective (crcBits · bits) := by
  induction bits with
  | nil => exact Function.injective_id
  | cons b bits ih => exact ih.comp (crcStep_injective b)

theorem crcStep_not_ne (c : BitVec 16) (b : Bool) : crcStep c (!b) ≠ crcStep c b :=
  fun h => Bool.not_ne_self b (Bool.xor_right_inj.mp (low_bits_eq_of_crcStep_eq h))

/-- Settles O42: the flipped bit leaves another register, and equal bits after it never bring the two together. -/
theorem singleBitErrorAlwaysChangesTheCrc : Obligations.SingleBitErrorAlwaysChangesTheCrc := by
  intro c pre post b
  rw [crcBits_append, crcBits_append]
  exact (crcBits_injective post).ne (crcStep_not_ne (crcBits c pre) b)

/-- Settles O39: the polynomial enters where the low bit and the input differ. -/
theorem crcStepFollowsTheRecurrence : Obligations.CrcStepFollowsTheRecurrence := by
  refine ⟨fun c b => ?_, by decide⟩
  rw [crcStep_eq]
  cases c.getLsbD 0 <;> cases b <;> rfl

end Sys2Proof.Machine
end

section
/-! The error family (60_exceptions.md): what writes LASTERR (R205), and that no reachable state is stuck (R211, R212). -/

namespace Sys2Proof.Machine

/-- Of the outcomes in RECEIVING a commit records nothing, and the others discard the packet and record a frame error
(43_packet_handler.md R165). -/
theorem outcome_commit_or_frameError {o : ExitOutcome} (h : o ≠ .syncTimeout) :
    o = .commit ∨ packetEvent o = .discard ∧
      (recordedError o = some .errStuff ∨ recordedError o = some .errNoend ∨ recordedError o = some .errCrc) := by
  cases o with
  | commit => exact .inl rfl
  | crcMismatch => exact .inr ⟨rfl, .inr (.inr rfl)⟩
  | stuffBitViolation => exact .inr ⟨rfl, .inl rfl⟩
  | noEndFlag => exact .inr ⟨rfl, .inr (.inl rfl)⟩
  | syncTimeout => exact absurd rfl h

/-- Settles O45: only the end of an attempt can write LASTERR; SyncTimeout ends one in WAITING and records nothing, a
commit records nothing and emits no DISCARD, and the frame errors do both in RECEIVING. -/
theorem lastErrorIsWrittenOnlyByAFrameError : Obligations.LastErrorIsWrittenOnlyByAFrameError := by
  intro s t w h
  cases command_outputs h with
  | silent he _ hl => exact .inr ⟨hl, fun _ => ⟨[], by rw [he, List.append_nil], by simp⟩⟩
  | opened _ _ _ he _ hl => exact .inr ⟨hl, fun _ => ⟨_, he, by simp⟩⟩
  | appended b _ _ _ he _ hl => exact .inr ⟨hl, fun _ => ⟨_, he, by simp⟩⟩
  | ended o pre hw _ hd hp he _ hl =>
    rw [List.append_assoc] at he
    rcases hd with ⟨rfl, hwaiting, _⟩ | ⟨hne, hreceiving⟩
    · exact .inr ⟨hl, fun hreceiving => by simp [hwaiting] at hreceiving⟩
    · rcases outcome_commit_or_frameError hne with rfl | ⟨hdiscard, herr⟩
      · have hquiet : Event.discard ∉ pre := by rcases hp with rfl | ⟨b, rfl⟩ <;> simp
        exact .inr ⟨hl, fun _ => ⟨_, he, by simp [hquiet, packetEvent]⟩⟩
      · refine .inl ⟨hreceiving, hw, ⟨_, he, by simp [hdiscard]⟩, ?_⟩
        rw [hl]
        rcases herr with herr | herr | herr <;> simp [herr]

/-- No instruction ends in a fault or a refusal (60_exceptions.md R212). -/
theorem exists_exec_eq_next (i : Instr) (s : State) : ∃ t, exec i s = .next t := by
  cases i <;> exact ⟨_, rfl⟩

/-- An assigned word in an assigned DSTATE decodes (30_encoding.md R75). -/
theorem exists_decodeCommand_eq_ok {w : Word} {d : DState} (hw : Word.wf w = true) (hd : d.assigned = true) (t : SState) :
    ∃ i, decodeCommand w d t = .ok i := by
  rcases word_cases w with ⟨raw, rfl⟩ | ⟨c, rfl⟩ | rfl | rfl
  · rw [decodeCommand_bitWord]; exact decodeBit_of_assigned raw t (of_decide_eq_true hd)
  · cases c <;> exact ⟨_, rfl⟩
  · exact absurd hw (by decide)
  · exact absurd hw (by decide)

theorem exists_command_eq_next {w : Word} {s : State} (hw : Word.wf w = true) (hd : s.dstate.assigned = true) :
    ∃ t, command w s = .next t := by
  obtain ⟨i, hi⟩ := exists_decodeCommand_eq_ok hw hd s.sstate
  rw [command_eq, hi]
  exact exists_exec_eq_next i s

theorem wf_bitWord (raw : Bool) : Word.wf (bitWord raw) = true := by cases raw <;> rfl

theorem wf_controlWord (c : Control) : Word.wf c.word = true := by cases c <;> rfl

@[simp] theorem streamWf_word_cons (w : Word) (is : List Issue) :
    streamWf (.word w :: is) = (Word.wf w && streamWf is) := rfl

@[simp] theorem streamWf_concurrent_cons (bits : List Bool) (controls : List Control) (is : List Issue) :
    streamWf (.concurrent bits controls :: is) = streamWf is := rfl

/-- A stream with no reserved word gives up an assigned word, and what it leaves holds none either (20_memory.md R60, R61). -/
theorem nextCommand_wf {is rest : List Issue} {w : Word} {k n : Nat} (hnext : nextCommand is k = some (w, rest, n))
    (his : streamWf is = true) : Word.wf w = true ∧ streamWf rest = true := by
  induction is, k using nextCommand.induct_unfolding with
  | case1 => cases hnext
  | case2 => cases hnext; simpa using his
  | case3 _ _ ih => exact ih hnext (by simpa using his)
  | case4 b | case7 b => cases hnext; exact ⟨wf_bitWord b, by simpa using his⟩
  | case5 c | case6 _ _ c => cases hnext; exact ⟨wf_controlWord c, by simpa using his⟩

/-- No command writes the stream. -/
theorem Effect.stream_eq {s t : State} {w : Word} (e : Effect s w t) : t.stream = s.stream := by
  cases e <;> simp

/-- Settles O54: with no command left the state stays; the next command is an assigned word, DSTATE is assigned, and so
the command answers next, leaving the stream as the step took it. -/
theorem noReachableStateIsStuck : Obligations.NoReachableStateIsStuck := by
  intro s hs his
  cases hnext : nextCommand s.stream s.draws with
  | none => exact ⟨s, step_of_no_command hnext, hs, his⟩
  | some next =>
    obtain ⟨w, rest, n⟩ := next
    obtain ⟨hw, hrest⟩ := nextCommand_wf hnext his
    obtain ⟨t, ht⟩ := exists_command_eq_next (s := { s with stream := rest, draws := n }) hw hs.dstate_assigned
    have hstep : step s = .next t := (step_of_nextCommand hnext).trans ht
    exact ⟨t, hstep, everyStepKeepsTheRegisterInvariant s t hs hstep, by rwa [(command_effect ht).stream_eq]⟩

end Sys2Proof.Machine
end

section
/-! ENABLE racing a BIT in OFF, and the length of PREFETCH (70_reset_and_hazards.md R236, R240). -/

namespace Sys2Proof.Machine

/-- Settles O49: in each order the two commands run one after the other, ENABLE from OFF in both. -/
theorem enableRacingABitInOff : Obligations.EnableRacingABitInOff := by
  intro s raw hd
  have henable {u : State} (hu : u.dstate = .off) : command Control.enable.word u = .next { u with dstate := .reset } :=
    (command_enable u).trans (exec_enable_of_off hu)
  have hreset := command_bitReset (s := { s with dstate := .reset }) rfl raw
  have hoff : (nrziPrelude raw s).dstate = .off := hd
  refine ⟨⟨resetStep (nrziPrelude raw { s with dstate := .reset }), ?enableFirst, rfl, rfl⟩,
    ⟨{ nrziPrelude raw s with dstate := .reset }, ?bitFirst, rfl, rfl⟩⟩
  case enableFirst => rw [runCommands_cons (henable hd), runCommands_cons hreset, runCommands]
  case bitFirst => rw [runCommands_cons (command_bitOff hd raw), runCommands_cons (henable hoff), runCommands]

/-- Short of the eighth bit PREFETCH only counts its bits and shifts them into the window. -/
theorem quietFeed_withinPrefetch (ds : List Bool) {s : State} (hd : s.dstate = .prefetch)
    (hlen : s.bitcnt.toNat + ds.length ≤ 7) :
    ∃ t, QuietFeed s ds t ∧ t.dstate = .prefetch ∧ t.bitcnt.toNat = s.bitcnt.toNat + ds.length ∧
      t.win = ds.foldl shiftWindow s.win := by
  induction ds generalizing s with
  | nil => exact ⟨s, .nil s, hd, rfl, rfl⟩
  | cons d ds ih =>
    rw [List.length_cons] at hlen ⊢
    have hinc := inc_toNat s.params.counterOverflow s.bitcnt (by omega)
    have hne : inc s.params.counterOverflow s.bitcnt ≠ 8#16 := (inc_eq_eight_iff _ _).not.mpr (by omega)
    have hbits : (countBit (nrziPrelude (s.rawOf d) s)).bitcnt.toNat = s.bitcnt.toNat + 1 := hinc
    obtain ⟨t, hfeed, hd', hbitcnt, hwin⟩ := ih (s := countBit (nrziPrelude (s.rawOf d) s)) hd (by omega)
    exact ⟨t, (QuietFeed.single (command_prefetch hd _ hne)).append hfeed, hd', by omega, by simpa using hwin⟩

/-- Settles O37: up to seven bits stay in PREFETCH; the eighth starts the Frame Assembler, and the window then holds all
eight in its upper half. -/
theorem prefetchLastsExactlyEightBits : Obligations.PrefetchLastsExactlyEightBits := by
  intro s ds hd hb hlen
  have hzero : s.bitcnt.toNat = 0 := by rw [hb]; rfl
  by_cases hshort : ds.length < 8
  · obtain ⟨t, hfeed, hd', _⟩ := quietFeed_withinPrefetch ds hd (by omega)
    exact ⟨t, hfeed.feed_eq, hfeed.events, hfeed.chan, fun _ => hd', fun h => by omega⟩
  · obtain ⟨ds, d, rfl⟩ := List.eq_nil_or_concat' ds |>.resolve_left fun h => by simp [h] at hshort
    have hseven : ds.length = 7 := by simp at hlen hshort; omega
    obtain ⟨t, hfeed, hd', hbits, hwin⟩ := quietFeed_withinPrefetch ds hd (by omega)
    have height : inc t.params.counterOverflow t.bitcnt = 8#16 := (inc_eq_eight_iff _ _).mpr (by omega)
    have hall := hfeed.append (QuietFeed.single (command_startFrame hd' (t.rawOf d) height))
    refine ⟨_, hall.feed_eq, hall.events, hall.chan, fun h => absurd h hshort, fun h8 =>
      ⟨rfl, rfl, rfl, rfl, rfl, rfl, fun j hj => ?_⟩⟩
    have hplace := windowHoldsTheNewestBitsInTimeOrder.1 s.win (ds ++ [d]) j (by omega) hj
    rw [h8] at hplace
    simpa [hwin] using hplace

end Sys2Proof.Machine
end

section
/-! RECEIVING ends within its bound (70_reset_and_hazards.md R240): every BIT command that does not end the frame lowers
`State.bitsLeft`. -/

namespace Sys2Proof.Machine

/-- How many more BIT commands a frame can take: the data bits up to the one past the ceiling, and a stuff bit for every
five of them, the present run of ones counted in (42_frame_assembler.md R132, R137). -/
def State.bitsLeft (s : State) : Nat :=
  let dataBits := s.params.maxFrameBits + 1 - s.bitcnt.toNat
  dataBits + (dataBits + s.run.toNat) / 5

theorem RegistersOk.bitsLeft_pos {s : State} (h : RegistersOk s) (hd : s.dstate = .receiving) : 0 < s.bitsLeft := by
  have hle := h.frame_bits hd
  simp only [State.bitsLeft]
  omega

/-- A dropped stuff bit gives up the run of five ones that was counted for it. -/
theorem bitsLeft_dropStuff {s : State} (raw : Bool) (hr : s.run = 5#3) :
    State.bitsLeft { nrziPrelude raw s with run := 0#3 } < s.bitsLeft := by
  have hrun : s.run.toNat = 5 := by rw [hr]; rfl
  simp only [State.bitsLeft, nrziPrelude_params, nrziPrelude_bitcnt, BitVec.toNat_ofNat, hrun]
  omega

/-- A data bit within the ceiling uses one data bit up, and makes the run of ones longer by one at most. -/
theorem bitsLeft_dataState {s : State} (raw : Bool) (hs : RegistersOk s) (hd : s.dstate = .receiving)
    (hwf : s.params.wf = true) : (dataState raw s).bitsLeft < s.bitsLeft := by
  have hle := hs.frame_bits hd
  have hmax := Params.maxFrameBits_lt_of_wf hwf
  have hrun : (trackRun (s.win.getLsbD 8) s).run.toNat ≤ s.run.toNat + 1 := by
    cases s.win.getLsbD 8 with
    | false => simp [trackRun_false]
    | true => exact (trackRun_true_run_toNat (Nat.lt_of_le_of_lt hs.run_le (by decide))).le
  have hinc := inc_toNat s.params.counterOverflow s.bitcnt (by omega)
  simp only [State.bitsLeft, dataState_params, dataState_bitcnt, dataState_run, hinc]
  omega

/-- The end-flag test ends the frame or leaves the state (42_frame_assembler.md R138). -/
theorem endFlagTest_reset_or_same (s : State) : (endFlagTest s).dstate = .reset ∨ endFlagTest s = s := by
  rcases endFlagTest_cases s with ⟨_, h⟩ | ⟨_, _, h⟩ | ⟨_, _, h⟩
  · exact .inr h
  · exact .inl (by rw [h]; rfl)
  · exact .inl (by rw [h]; rfl)

/-- A BIT command in RECEIVING ends the frame, or fewer bits are left of it. -/
theorem command_receive_reset_or_bitsLeft_lt {s : State} (raw : Bool) (hs : RegistersOk s) (hd : s.dstate = .receiving)
    (hwf : s.params.wf = true) :
    ∃ t, command (bitWord raw) s = .next t ∧ (t.dstate = .reset ∨ t.dstate = .receiving ∧ t.bitsLeft < s.bitsLeft) := by
  rw [command_receive hd]
  have hgoesOn {u : State} (hu : u.dstate = .receiving) (hlt : u.bitsLeft < s.bitsLeft) :
      (endFlagTest u).dstate = .reset ∨ (endFlagTest u).dstate = .receiving ∧ (endFlagTest u).bitsLeft < s.bitsLeft :=
    (endFlagTest_reset_or_same u).imp_right fun h => by rw [h]; exact ⟨hu, hlt⟩
  rcases execBitReceive_cases raw s with ⟨_, _, h⟩ | ⟨hr, _, h⟩ | ⟨_, _, h⟩ | ⟨_, _, h⟩
  · exact ⟨_, h, .inl rfl⟩
  · exact ⟨_, h, hgoesOn hd (bitsLeft_dropStuff raw hr)⟩
  · exact ⟨_, h, .inl rfl⟩
  · exact ⟨_, h, hgoesOn ((dataState_dstate raw s).trans hd) (bitsLeft_dataState raw hs hd hwf)⟩

/-- As many bits as are left reach the end of the frame. -/
theorem receiving_ends_within_bitsLeft (rs : List Bool) {s : State} (hs : RegistersOk s) (hd : s.dstate = .receiving)
    (hwf : s.params.wf = true) (hlen : s.bitsLeft ≤ rs.length) :
    ∃ k t, k ≤ rs.length ∧ runCommands ((rs.take k).map bitWord) s = .next t ∧ t.dstate = .reset := by
  induction rs generalizing s with
  | nil => exact absurd hlen (Nat.not_le.mpr (hs.bitsLeft_pos hd))
  | cons r rs ih =>
    obtain ⟨u, hu, hend⟩ := command_receive_reset_or_bitsLeft_lt r hs hd hwf
    rcases hend with hreset | ⟨hd', hlt⟩
    · exact ⟨1, u, by simp, runCommands_cons hu [], hreset⟩
    · have heffect := command_effect hu
      rw [List.length_cons] at hlen ⊢
      obtain ⟨k, t, hk, hrun, ht⟩ :=
        ih (heffect.keeps_registersOk hs) hd' (by rwa [heffect.params_eq]) (by omega)
      exact ⟨k + 1, t, by omega, (runCommands_cons hu _).trans hrun, ht⟩

/-- Settles O38: the bound is what is left at the start of RECEIVING, and every bit that does not end it takes from that. -/
theorem receivingEndsWithinItsBound : Obligations.ReceivingEndsWithinItsBound := by
  intro s rs hd hb hr hwf hlen
  have hs : RegistersOk s := .of_receiving hd (by simp [hr]) (by simp [hb])
  exact receiving_ends_within_bitsLeft rs hs hd hwf (by simp [State.bitsLeft, hb, hr, hlen])

end Sys2Proof.Machine
end

section
/-! What the outputs cannot tell of the power-on values (70_reset_and_hazards.md R231). In OFF and RESET every register
but DSTATE, LASTERR and CHAN is out of sight. The Reset step then writes all the others except WIN[15], which no operation
reads before PREFETCH has pushed it out of the upper half of the window. -/

namespace Sys2Proof.Machine

/-- The fields that the outputs depend on in OFF and RESET. -/
structure SameObserved (s t : State) : Prop where
  events : s.events = t.events
  results : s.results = t.results
  dstate : s.dstate = t.dstate
  lasterr : s.lasterr = t.lasterr
  chan : s.chan = t.chan
  params : s.params = t.params

/-- The window and the fields the model adds for its inputs and draws, replaced. -/
def State.withHidden (s : State) (v : BitVec 16) (is : List Issue) (n : Nat) : State :=
  { s with win := v, stream := is, draws := n }

/-- The windows agree in their `k` newest bits. -/
def AgreeNewest (k : Nat) (w v : BitVec 16) : Prop := ∀ i, 16 - k ≤ i → w.getLsbD i = v.getLsbD i

theorem AgreeNewest.zero (w v : BitVec 16) : AgreeNewest 0 w v := fun i hi => by
  rw [BitVec.getLsbD_of_ge w i hi, BitVec.getLsbD_of_ge v i hi]

theorem AgreeNewest.mono {k j : Nat} {w v : BitVec 16} (h : AgreeNewest k w v) (hj : j ≤ k) : AgreeNewest j w v :=
  fun i hi => h i (by omega)

theorem AgreeNewest.after_shift {k : Nat} {w v : BitVec 16} (h : AgreeNewest k w v) (d : Bool) :
    AgreeNewest (k + 1) (shiftWindow w d) (shiftWindow v d) := by
  intro i hi
  rw [shiftWindow_getLsbD, shiftWindow_getLsbD, h (i + 1) (by omega)]

theorem AgreeNewest.newestByte_eq {w v : BitVec 16} (h : AgreeNewest 8 w v) : newestByte w = newestByte v := by
  refine BitVec.eq_of_getLsbD_eq fun i hi => ?_
  simp only [newestByte, BitVec.getLsbD_extractLsb', h (8 + i) (by omega)]

/-- How many of the newest window bits came in since PREFETCH began, as far as RECEIVING reads them. -/
def State.settledBits (s : State) : Nat :=
  match s.dstate with
  | .prefetch => s.bitcnt.toNat
  | .receiving => 8
  | _ => 0

theorem inc_toNat_le (mode : CounterOverflow) (c : BitVec 16) : (inc mode c).toNat ≤ c.toNat + 1 := by
  by_cases hmax : c.toNat < 65535
  · exact (inc_toNat mode c hmax).le
  · rw [eq_allOnes_of_toNat c (by omega)]; cases mode <;> decide

/-- A command settles one more bit at most. -/
theorem Effect.settledBits_le {s t : State} {w : Word} (e : Effect s w t) : t.settledBits ≤ s.settledBits + 1 := by
  cases e with
  | prefetch raw hd =>
    have hle := inc_toNat_le s.params.counterOverflow s.bitcnt
    simpa [State.settledBits, hd] using hle
  | startFrame raw hd height =>
    have hseven := (inc_eq_eight_iff _ _).mp height
    simp [State.settledBits, hd, hseven]
  | off _ hd | reset _ hd | timeout _ hd | startRun _ hd | extendToOne _ hd | extendToZero _ hd
  | enterFlagFromZero _ hd | enterFlagFromOne _ hd | runTooShort _ hd | flagBit _ hd | flagBroken _ hd
  | found _ hd | stuffViolation _ hd | stuffDropped _ hd | stuffDroppedAtFlag _ _ hd | tooLong _ hd | dataBit _ hd
  | dataBitAtFlag _ _ hd | enableFromOff hd => simp [State.settledBits, hd]
  | disable => simp [State.settledBits]
  | enableElsewhere | readState | readError => exact Nat.le_succ _

theorem NrziEffect.win_of_bitWord {s t : State} {raw : Bool} (e : NrziEffect s (bitWord raw) t)
    (hd : s.dstate ≠ .reset) : t.win = shiftWindow s.win (s.decodedBit raw) := by
  generalize hw : bitWord raw = w at e
  have hraw : w.getLsbD 0 = raw := by rw [← hw, bitWord_getLsbD]
  cases e with
  | bit _ _ _ hwin => rwa [← hraw, bitWord_getLsbD]
  | resetBit _ hd' => exact absurd hd' hd
  | control c => simpa using congrArg isBitWord hw

end Sys2Proof.Machine
end

section
/-! Within an attempt a BIT command does the same whatever the hidden fields hold, for each BIT operation on its own. -/

namespace Sys2Proof.Machine

/-- Both answers are next states, the same but for the hidden fields, which in the second are `v`, `is` and `n`. -/
def SameNext (v : BitVec 16) (is : List Issue) (n : Nat) (r r' : StepResult) : Prop :=
  ∃ u, r = .next u ∧ r' = .next (u.withHidden v is n)

section

variable {s : State} {raw : Bool} {v : BitVec 16} {is : List Issue} {n : Nat}

theorem sameNext_syncReset :
    SameNext (shiftWindow v (s.decodedBit raw)) is n (execBitSyncReset raw s)
      (execBitSyncReset raw (s.withHidden v is n)) := by
  by_cases hb : (inc s.params.counterOverflow s.bitcnt).toNat > s.params.syncTimeout
  · exact ⟨_, execBitSyncReset_timeout hb, execBitSyncReset_timeout (s := s.withHidden v is n) hb⟩
  · have hb := Nat.not_lt.mp hb
    exact ⟨_, execBitSyncReset_start hb, execBitSyncReset_start (s := s.withHidden v is n) hb⟩

theorem repeatedBit_withHidden (remain : BitVec 8) :
    repeatedBit remain (s.withHidden v is n) = (repeatedBit remain s).withHidden v is n := by
  by_cases hb : s.scount.toNat > s.params.preambleMin
  · rw [repeatedBit_of_long remain hb, repeatedBit_of_long (s := s.withHidden v is n) remain hb]; rfl
  · have hb := Nat.not_lt.mp hb
    rw [repeatedBit_of_short remain hb, repeatedBit_of_short (s := s.withHidden v is n) remain hb]; rfl

theorem sameNext_syncSawZero :
    SameNext (shiftWindow v (s.decodedBit raw)) is n (execBitSyncSawZero raw s)
      (execBitSyncSawZero raw (s.withHidden v is n)) := by
  cases hd : s.decodedBit raw with
  | true => exact ⟨_, execBitSyncSawZero_one hd, hd ▸ execBitSyncSawZero_one (s := s.withHidden v is n) hd⟩
  | false =>
    exact ⟨_, execBitSyncSawZero_zero hd, hd ▸ (execBitSyncSawZero_zero (s := s.withHidden v is n) hd).trans
      (congrArg Host.Outcome.next (repeatedBit_withHidden (s := syncPrelude raw s) 7#8))⟩

theorem sameNext_syncSawOne :
    SameNext (shiftWindow v (s.decodedBit raw)) is n (execBitSyncSawOne raw s)
      (execBitSyncSawOne raw (s.withHidden v is n)) := by
  cases hd : s.decodedBit raw with
  | false => exact ⟨_, execBitSyncSawOne_zero hd, hd ▸ execBitSyncSawOne_zero (s := s.withHidden v is n) hd⟩
  | true =>
    exact ⟨_, execBitSyncSawOne_one hd, hd ▸ (execBitSyncSawOne_one (s := s.withHidden v is n) hd).trans
      (congrArg Host.Outcome.next (repeatedBit_withHidden (s := syncPrelude raw s) 5#8))⟩

/-- From 1 up the flag count draws no free value. -/
theorem countFlagBit_withHidden (hpos : 1 ≤ s.scount.toNat) :
    countFlagBit (s.withHidden v is n) = (countFlagBit s).withHidden v is n := by
  rw [countFlagBit_of_pos hpos, countFlagBit_of_pos (s := s.withHidden v is n) hpos]; rfl

theorem sameNext_syncInFlag (hpos : 1 ≤ s.scount.toNat) :
    SameNext (shiftWindow v (s.decodedBit raw)) is n (execBitSyncInFlag raw s)
      (execBitSyncInFlag raw (s.withHidden v is n)) := by
  have hcount : countFlagBit (syncPrelude raw (s.withHidden v is n)) =
      (countFlagBit (syncPrelude raw s)).withHidden (shiftWindow v (s.decodedBit raw)) is n :=
    countFlagBit_withHidden (s := syncPrelude raw s) hpos
  have hscount := congrArg State.scount hcount
  have hbit : (s.withHidden v is n).decodedBit raw = s.decodedBit raw := rfl
  by_cases hz : (countFlagBit (syncPrelude raw s)).scount = 0#8
  · have hz' := hscount.trans hz
    cases hd : s.decodedBit raw with
    | true =>
      exact ⟨_, execBitSyncInFlag_broken (.inr ⟨hz, hd⟩), by
        rw [execBitSyncInFlag_broken (.inr ⟨hz', hbit.trans hd⟩), hcount, hd]; rfl⟩
    | false =>
      exact ⟨_, execBitSyncInFlag_found hz hd, by
        rw [execBitSyncInFlag_found hz' (hbit.trans hd), hcount, hd]; rfl⟩
  · have hz' := fun h => hz (hscount.symm.trans h)
    cases hd : s.decodedBit raw with
    | true =>
      exact ⟨_, execBitSyncInFlag_goesOn hz hd, by
        rw [execBitSyncInFlag_goesOn hz' (hbit.trans hd), hcount, hd]⟩
    | false =>
      exact ⟨_, execBitSyncInFlag_broken (.inl ⟨hz, hd⟩), by
        rw [execBitSyncInFlag_broken (.inl ⟨hz', hbit.trans hd⟩), hcount, hd]; rfl⟩

theorem sameNext_prefetch (hd : s.dstate = .prefetch) :
    SameNext (shiftWindow v (s.decodedBit raw)) is n (command (bitWord raw) s)
      (command (bitWord raw) (s.withHidden v is n)) := by
  by_cases hb : inc s.params.counterOverflow s.bitcnt = 8#16
  · exact ⟨_, command_startFrame hd raw hb, command_startFrame (s := s.withHidden v is n) hd raw hb⟩
  · exact ⟨_, command_prefetch hd raw hb, command_prefetch (s := s.withHidden v is n) hd raw hb⟩

theorem endFlagTest_withHidden (hwin : newestByte s.win = newestByte v) :
    endFlagTest (s.withHidden v is n) = (endFlagTest s).withHidden v is n := by
  by_cases hf : newestByte s.win = 0x7E#8
  · have hf' : newestByte (s.withHidden v is n).win = 0x7E#8 := hwin.symm.trans hf
    by_cases hc : s.crc = 0xF0B8#16
    · rw [endFlagTest_of_residue hf hc, endFlagTest_of_residue hf' hc]; rfl
    · rw [endFlagTest_of_crc_ne hf hc, endFlagTest_of_crc_ne hf' hc]; rfl
  · rw [endFlagTest_of_ne hf, endFlagTest_of_ne (s := s.withHidden v is n) fun h => hf (hwin.trans h)]

/-- Of the window the assembly of a bit reads WIN[8], and below RUN = 7 it draws no free value. -/
theorem dataState_withHidden (hrun : s.run.toNat < 7) (ha : s.win.getLsbD 8 = v.getLsbD 8) :
    dataState raw (s.withHidden v is n) =
      (dataState raw s).withHidden (shiftWindow v (s.decodedBit raw)) is n := by
  have ha' : (s.withHidden v is n).win.getLsbD 8 = s.win.getLsbD 8 := ha.symm
  rw [dataState_eq, dataState_eq, ha', trackRun_of_lt _ hrun, trackRun_of_lt (s := s.withHidden v is n) _ hrun]
  rfl

theorem sameNext_receive (hrun : s.run.toNat ≤ 5) (hwin : AgreeNewest 8 s.win v) :
    SameNext (shiftWindow v (s.decodedBit raw)) is n (execBitReceive raw s)
      (execBitReceive raw (s.withHidden v is n)) := by
  have ha' : (s.withHidden v is n).win.getLsbD 8 = s.win.getLsbD 8 := (hwin 8 le_rfl).symm
  have hnewest : newestByte (shiftWindow s.win (s.decodedBit raw)) = newestByte (shiftWindow v (s.decodedBit raw)) :=
    ((hwin.after_shift _).mono (Nat.le_succ 8)).newestByte_eq
  by_cases hr : s.run = 5#3
  · cases ha : s.win.getLsbD 8 with
    | true =>
      exact ⟨_, execBitReceive_stuffOne hr ha, execBitReceive_stuffOne (s := s.withHidden v is n) hr (ha'.trans ha)⟩
    | false =>
      exact ⟨_, execBitReceive_stuffZero hr ha,
        (execBitReceive_stuffZero (s := s.withHidden v is n) hr (ha'.trans ha)).trans
          (congrArg Host.Outcome.next (endFlagTest_withHidden (s := { nrziPrelude raw s with run := 0#3 }) hnewest))⟩
  · have hdata := dataState_withHidden (raw := raw) (is := is) (n := n) (by omega) (hwin 8 le_rfl)
    by_cases hb : (inc s.params.counterOverflow s.bitcnt).toNat > s.params.maxFrameBits
    · exact ⟨_, execBitReceive_tooLong hr hb, by
        rw [execBitReceive_tooLong (s := s.withHidden v is n) hr hb, hdata]; rfl⟩
    · have hb := Nat.not_lt.mp hb
      exact ⟨_, execBitReceive_data hr hb, by
        rw [execBitReceive_data (s := s.withHidden v is n) hr hb, hdata,
          endFlagTest_withHidden (by rwa [dataState_win])]⟩

/-- Within an attempt a BIT command reads of the hidden fields only window bits that are settled. -/
theorem sameNext_bit (hs : RegistersOk s) (hoff : s.dstate ≠ .off) (hreset : s.dstate ≠ .reset)
    (hwin : AgreeNewest s.settledBits s.win v) :
    SameNext (shiftWindow v (s.decodedBit raw)) is n (command (bitWord raw) s)
      (command (bitWord raw) (s.withHidden v is n)) := by
  have hassigned := hs.dstate_assigned
  cases hd : s.dstate with
  | off => exact absurd hd hoff
  | reset => exact absurd hd hreset
  | waiting =>
    have hboth {t : SState} {i : Instr} (ht : s.sstate = t) (hi : decodeBit raw .waiting t = .ok i) :
        command (bitWord raw) s = exec i s ∧
          command (bitWord raw) (s.withHidden v is n) = exec i (s.withHidden v is n) :=
      ⟨command_waiting ⟨hd, ht⟩ hi, command_waiting (s := s.withHidden v is n) ⟨hd, ht⟩ hi⟩
    cases ht : s.sstate with
    | sreset => rw [(hboth ht rfl).1, (hboth ht rfl).2]; exact sameNext_syncReset
    | sawZero => rw [(hboth ht rfl).1, (hboth ht rfl).2]; exact sameNext_syncSawZero
    | sawOne => rw [(hboth ht rfl).1, (hboth ht rfl).2]; exact sameNext_syncSawOne
    | inFlag => rw [(hboth ht rfl).1, (hboth ht rfl).2]; exact sameNext_syncInFlag (hs.flag_bits_left hd ht).1
  | prefetch => exact sameNext_prefetch hd
  | receiving =>
    rw [command_receive hd, command_receive (s := s.withHidden v is n) hd]
    rw [State.settledBits, hd] at hwin
    exact sameNext_receive hs.run_le hwin
  | unassigned5 | unassigned6 | unassigned7 => rw [hd] at hassigned; cases hassigned

end

end Sys2Proof.Machine
end

section
/-! The relation that two runs with different power-on values keep (70_reset_and_hazards.md R231). -/

namespace Sys2Proof.Machine

/-- Two states that no command sequence tells apart: in OFF or RESET with the same observed fields, or the same but for the
hidden fields, with the settled window bits equal. -/
inductive Indistinguishable (s t : State) : Prop
  | idle (hd : s.dstate = .off ∨ s.dstate = .reset) (h : SameObserved s t)
  | attempt (hs : RegistersOk s) (hoff : s.dstate ≠ .off) (hreset : s.dstate ≠ .reset) (v : BitVec 16)
      (is : List Issue) (n : Nat) (ht : t = s.withHidden v is n) (hwin : AgreeNewest s.settledBits s.win v)

theorem SameObserved.withHidden (s : State) (v : BitVec 16) (is : List Issue) (n : Nat) :
    SameObserved s (s.withHidden v is n) := ⟨rfl, rfl, rfl, rfl, rfl, rfl⟩

theorem Indistinguishable.of_withHidden {s : State} {v : BitVec 16} (hs : RegistersOk s)
    (hwin : AgreeNewest s.settledBits s.win v) (is : List Issue) (n : Nat) :
    Indistinguishable s (s.withHidden v is n) := by
  by_cases hd : s.dstate = .off ∨ s.dstate = .reset
  · exact .idle hd (.withHidden s v is n)
  · rw [not_or] at hd
    exact .attempt hs hd.1 hd.2 v is n rfl hwin

theorem Indistinguishable.sameObserved {s t : State} (h : Indistinguishable s t) : SameObserved s t := by
  cases h with
  | idle _ h => exact h
  | attempt _ _ _ v is n ht => rw [ht]; exact .withHidden s v is n

/-- Both runs are refused alike, or both go on to states that no command sequence tells apart. -/
inductive AnsweredAlike : StepResult → StepResult → Prop
  | refused (r : Refusal) : AnsweredAlike (.refused r) (.refused r)
  | next {s t : State} (h : Indistinguishable s t) : AnsweredAlike (.next s) (.next t)

/-- The Reset step leaves nothing of the old registers but the window's newest bit (43_packet_handler.md R162). -/
theorem Indistinguishable.after_resetStep {s t : State} (h : SameObserved s t) (raw : Bool) :
    Indistinguishable (resetStep (nrziPrelude raw s)) (resetStep (nrziPrelude raw t)) := by
  have ht : resetStep (nrziPrelude raw t) = (resetStep (nrziPrelude raw s)).withHidden
      (resetStep (nrziPrelude raw t)).win t.stream t.draws := by
    cases s; cases t
    obtain ⟨rfl, rfl, rfl, rfl, rfl, rfl⟩ := h
    rfl
  rw [ht]
  refine .of_withHidden (.of_waiting rfl (by simp) (by simp)) ?_ _ _
  exact .zero _ _

theorem Indistinguishable.answeredAlike_bit {s t : State} (h : Indistinguishable s t) (raw : Bool) :
    AnsweredAlike (command (bitWord raw) s) (command (bitWord raw) t) := by
  cases h with
  | idle hd h =>
    rcases hd with hd | hd
    · rw [command_bitOff hd, command_bitOff (h.dstate.symm.trans hd)]
      exact .next (.idle (.inl hd) ⟨h.events, h.results, h.dstate, h.lasterr, h.chan, h.params⟩)
    · rw [command_bitReset hd, command_bitReset (h.dstate.symm.trans hd)]
      exact .next (.after_resetStep h raw)
  | attempt hs hoff hreset v is n ht hwin =>
    obtain ⟨u, hu, hu'⟩ := sameNext_bit (raw := raw) (is := is) (n := n) hs hoff hreset hwin
    have heffect := command_effect hu
    rw [ht, hu, hu']
    refine .next (.of_withHidden (heffect.keeps_registersOk hs) ?_ is n)
    rw [heffect.nrziEffect.win_of_bitWord hreset]
    exact (hwin.after_shift _).mono heffect.settledBits_le

theorem Indistinguishable.answer {s t : State} (h : Indistinguishable s t) (r : ReadResult) :
    Indistinguishable (s.answer r) (t.answer r) := by
  cases h with
  | idle hd h => exact .idle hd ⟨h.events, congrArg (· ++ [r]) h.results, h.dstate, h.lasterr, h.chan, h.params⟩
  | attempt hs hoff hreset v is n ht hwin => exact .attempt (hs.answer r) hoff hreset v is n (by rw [ht]; rfl) hwin

theorem Indistinguishable.answeredAlike_control {s t : State} (h : Indistinguishable s t) (c : Control) :
    AnsweredAlike (command c.word s) (command c.word t) := by
  have ho := h.sameObserved
  cases c with
  | enable =>
    rw [command_enable, command_enable]
    by_cases hoff : s.dstate = .off
    · rw [exec_enable_of_off hoff, exec_enable_of_off (ho.dstate.symm.trans hoff)]
      exact .next (.idle (.inr rfl) ⟨ho.events, ho.results, rfl, ho.lasterr, ho.chan, ho.params⟩)
    · rw [exec_enable_of_ne_off hoff, exec_enable_of_ne_off fun ht => hoff (ho.dstate.trans ht)]
      exact .next h
  | disable =>
    rw [command_disable, command_disable]
    exact .next (.idle (.inl rfl) ⟨ho.events, ho.results, rfl, ho.lasterr, ho.chan, ho.params⟩)
  | readState =>
    rw [command_readState, command_readState, exec, exec, execReadState, execReadState, ← ho.dstate]
    exact .next (h.answer _)
  | readError =>
    rw [command_readError, command_readError, exec, exec, execReadError, execReadError, ← ho.lasterr]
    exact .next (h.answer _)

theorem Indistinguishable.answeredAlike {s t : State} (h : Indistinguishable s t) (w : Word) :
    AnsweredAlike (command w s) (command w t) := by
  rcases word_cases w with ⟨raw, rfl⟩ | ⟨c, rfl⟩ | hw
  · exact h.answeredAlike_bit raw
  · exact h.answeredAlike_control c
  · rw [reservedWordsAreRefusedInEveryState s w hw, reservedWordsAreRefusedInEveryState t w hw]
    exact .refused _

theorem Indistinguishable.sameOutputs {s t : State} (h : Indistinguishable s t) (ws : List Word) :
    SameOutputs (runCommands ws s) (runCommands ws t) := by
  induction ws generalizing s t with
  | nil =>
    have ho := h.sameObserved
    exact ⟨ho.events, ho.results, ho.dstate, ho.lasterr, ho.chan⟩
  | cons w ws ih =>
    rw [runCommands, runCommands]
    have hw := h.answeredAlike w
    generalize command w s = r, command w t = r' at hw
    cases hw with
    | refused q => rfl
    | next h => exact ih h

/-- Settles O55: the two states are indistinguishable in OFF, every command answers such states alike, and such states have
the same outputs. -/
theorem otherPowerOnValuesAreUnobservable : Obligations.OtherPowerOnValuesAreUnobservable := by
  intro s t ws hs ht hchan hlasterr hparams hevents hresults
  have hstart : Indistinguishable s t :=
    .idle (.inl hs) ⟨hevents, hresults, hs.trans ht.symm, hlasterr, hchan, hparams⟩
  exact hstart.sameOutputs ws

end Sys2Proof.Machine
end
